-- ==== Sys2Proof/Config.lean ====
section
/-! DEFINITION. Config.lean: the packet types, the implementation parameters of 00_scope.md R8, the
parameters R10 derives from them alone, and the free values of R14 (opaque constants: no proof can see
what they are). -/

namespace Sys2Proof

/-- The six inbound packet types (30_encoding.md R72), in the order the source lists them. -/
inductive InType where
  | echoRequest | setTime | reset | write | bufferSpaceRequest | readRequest
  deriving DecidableEq, Repr, Inhabited

/-- The four outbound packet types (30_encoding.md R73). -/
inductive OutType where
  | echoReply | bufferSpaceReply | readReplyNoEvent | readReply
  deriving DecidableEq, Repr, Inhabited

/-- The parameter `TC_IN` (R8, R72): one type code for each inbound type. -/
structure InCodes where
  echoRequest : Nat
  setTime : Nat
  reset : Nat
  write : Nat
  bufferSpaceRequest : Nat
  readRequest : Nat
  deriving DecidableEq, Repr

/-- The parameter `TC_OUT` (R8, R73): one type code for each outbound type. -/
structure OutCodes where
  echoReply : Nat
  bufferSpaceReply : Nat
  readReplyNoEvent : Nat
  readReply : Nat
  deriving DecidableEq, Repr

/-- The open parameters of 00_scope.md R8. The widths the source fixes are the constants below. -/
structure Config where
  /-- `WS`, the link word width. -/
  ws : Nat
  /-- `H`, the header width. -/
  h : Nat
  /-- `TC_IN`. -/
  tcIn : InCodes
  /-- `TC_OUT`. -/
  tcOut : OutCodes
  /-- `W_CH`. -/
  wCh : Nat
  /-- `W_WTS`. -/
  wWts : Nat
  /-- `W_ADDR`. -/
  wAddr : Nat
  /-- `W_EXTRA`. -/
  wExtra : Nat
  /-- `W_SHORT`. -/
  wShort : Nat
  /-- `W_TIMEOUT`. -/
  wTimeout : Nat
  /-- `W_RDATA`. -/
  wRdata : Nat
  deriving DecidableEq, Repr

/-- `W_TS = 64`, fixed by the source (R8). -/
abbrev Config.wTs : Nat := 64
/-- `W_PHY = 1`, fixed by the source (R8). -/
abbrev Config.wPhy : Nat := 1
/-- `W_SPACE = 16`, fixed by the source (R8). -/
abbrev Config.wSpace : Nat := 16
/-- `W_OVF = 1`, fixed by the source (R8). -/
abbrev Config.wOvf : Nat := 1
/-- `W_RTS = 64`, fixed by the source (R8). -/
abbrev Config.wRts : Nat := 64

/-- `NMAX`, the largest `extra_word_count` and the capacity of the accumulator (R10). -/
abbrev Config.nmax (c : Config) : Nat := 2 ^ c.wExtra - 1

/-- `W_WDATA`, the width of the I/O-core data port (R10). -/
abbrev Config.wWdata (c : Config) : Nat := c.wShort + c.nmax * c.ws

/-- `W_IO_TS`, the width of the I/O-core timestamp port (R10). -/
abbrev Config.wIoTs (c : Config) : Nat := max c.wWts c.wTimeout

/-- The default values of R8, R72 and R73, which every vector of 95_test_vectors.md uses.
DESIGN CHOICE: the host's `State` is the engine at these values (log entry 1); unsafe for a chip with
other values, for which `Machine.engineTick` at that chip's configuration is the model. -/
abbrev Config.dflt : Config where
  ws := 32
  h := 8
  tcIn := { echoRequest := 0, setTime := 1, reset := 2, write := 3, bufferSpaceRequest := 4, readRequest := 5 }
  tcOut := { echoReply := 0, bufferSpaceReply := 1, readReplyNoEvent := 2, readReply := 3 }
  wCh := 24
  wWts := 64
  wAddr := 16
  wExtra := 8
  wShort := 8
  wTimeout := 64
  wRdata := 32

/-- The values a tick leaves open or takes from outside: the draws of 45_tick_and_flow_control.md R226
(`tx_data` and the undriven I/O-core and timestamp lines of R38, the choice of R177, the unspecified
registers of 70_reset_and_hazards.md R260), and the input ports of a tick past the end of the listed
inputs (70_reset_and_hazards.md R275: a liberty is a free input). -/
inductive FreeName where
  | readOutcome
  | txData | ioChannel | ioTimestamp | ioAddress | ioData | tscValue
  | asmBuf (i : Nat)
  | rst | rxFrameActive | rxData
  | ioStatusPending | ioStatusTimedOut | ioStatusOverflowed
  | ioResultTimestamp | ioResultData | ioBufferSpace
  deriving DecidableEq, Repr

/-- A free value of `w` bits, fresh for each name and each tick (R14: a model must not fix it). Safe:
log entries 3 and 4. -/
opaque Config.freeBits : FreeName → (tick w : Nat) → BitVec w

/-- A free bit, fresh for each name and each tick (R14). Safe: log entries 3 and 4. -/
opaque Config.freeBit : FreeName → (tick : Nat) → Bool

/-- A free inbound type: `asm_type` after an `rst` tick (10_state.md R25, R45). Safe: log entry 5. -/
opaque Config.freeInType : (tick : Nat) → InType

end Sys2Proof
end

