-- ==== Sys2Proof/Word.lean ====
section
/-! DEFINITION. Word.lean: the link word (00_scope.md glossary, R8). -/

namespace Sys2Proof

/-- A link word: `WS` bits, bit 0 the least significant (R11). -/
abbrev Word (c : Config) := BitVec c.ws

end Sys2Proof
end

