-- ==== Sys2Proof/Packet.lean ====
section
/-! DEFINITION. Packet.lean: the tagged variants the registers `pkt` and `em_pkt` hold (10_state.md R28,
R35), at any configuration. Every value of every field is legal (30_encoding.md R82), so the widths in
the types are the whole of their well-formedness. -/

namespace Sys2Proof

/-- An inbound packet, as the register `pkt` holds it (10_state.md R28): for a Write, its header part. -/
inductive InPkt (c : Config) where
  | echoRequest
  | setTime (timestamp : BitVec Config.wTs)
  | reset (phy : BitVec Config.wPhy)
  | write (channel : BitVec c.wCh) (timestamp : BitVec c.wWts) (address : BitVec c.wAddr)
      (extraWordCount : BitVec c.wExtra) (shortData : BitVec c.wShort)
  | bufferSpaceRequest
  | readRequest (channel : BitVec c.wCh) (timeout : BitVec c.wTimeout)
  deriving DecidableEq, Repr

/-- An outbound packet, as the register `em_pkt` holds it (10_state.md R35). -/
inductive OutPkt (c : Config) where
  | echoReply
  | bufferSpaceReply (space : BitVec Config.wSpace)
  | readReplyNoEvent (overflow : BitVec Config.wOvf)
  | readReply (timestamp : BitVec Config.wRts) (data : BitVec c.wRdata)
  deriving DecidableEq, Repr

/-- The type of an inbound packet. -/
def InPkt.type {c : Config} : InPkt c → InType
  | .echoRequest => .echoRequest
  | .setTime _ => .setTime
  | .reset _ => .reset
  | .write _ _ _ _ _ => .write
  | .bufferSpaceRequest => .bufferSpaceRequest
  | .readRequest _ _ => .readRequest

/-- The type of an outbound packet. -/
def OutPkt.type {c : Config} : OutPkt c → OutType
  | .echoReply => .echoReply
  | .bufferSpaceReply _ => .bufferSpaceReply
  | .readReplyNoEvent _ => .readReplyNoEvent
  | .readReply _ _ => .readReply

end Sys2Proof
end

