-- ==== Sys2Proof/Syntax.lean ====
section
/-! DEFINITION. Syntax.lean: the ten rows of spec/opcode_table.json (30_encoding.md R86), one constructor
each, at the default configuration. The six inbound packets are the commands the master sends, the four
outbound packets the replies the engine sends (00_scope.md R3). -/

namespace Sys2Proof

/-- A packet type with its fields (30_encoding.md R75, R76). The payload words of a Write are not fields
of the packet: they follow it in its frame, one a tick (30_encoding.md R77; 10_state.md R28). -/
inductive Instr where
  /-- 42_receive_dispatch.md R145. -/
  | echoRequest
  /-- 42_receive_dispatch.md R146. -/
  | setTime (timestamp : BitVec Config.wTs)
  /-- 42_receive_dispatch.md R147. -/
  | reset (phy : BitVec Config.wPhy)
  /-- 42_receive_dispatch.md R148; the field order is that of 90_conflicts.md C1. -/
  | write (channel : BitVec Config.dflt.wCh) (timestamp : BitVec Config.dflt.wWts)
      (address : BitVec Config.dflt.wAddr) (extraWordCount : BitVec Config.dflt.wExtra)
      (shortData : BitVec Config.dflt.wShort)
  /-- 42_receive_dispatch.md R149. -/
  | bufferSpaceRequest
  /-- 42_receive_dispatch.md R150. -/
  | readRequest (channel : BitVec Config.dflt.wCh) (timeout : BitVec Config.dflt.wTimeout)
  /-- 43_reply_generation.md R172. -/
  | echoReply
  /-- 43_reply_generation.md R173. -/
  | bufferSpaceReply (space : BitVec Config.wSpace)
  /-- 43_reply_generation.md R174 (`overflow = 0`) and R175 (`overflow = 1`). -/
  | readReplyNoEvent (overflow : BitVec Config.wOvf)
  /-- 43_reply_generation.md R176. -/
  | readReply (timestamp : BitVec Config.wRts) (data : BitVec Config.dflt.wRdata)
  deriving DecidableEq, Repr

/-- The direction a packet travels in (30_encoding.md R73: the two code spaces are separate). -/
inductive Direction where
  | inbound
  | outbound
  deriving DecidableEq, Repr

end Sys2Proof
end

