-- ==== Sys2Proof/WellFormed.lean ====
section
/-! DEFINITION. WellFormed.lean: the two well-formedness checks the spec has: the constraints R9 on a
configuration, and the declared length of a frame (30_encoding.md R77; 70_reset_and_hazards.md R268).
A packet's own fields need no check: their widths are in their types and every value of every field is
legal (30_encoding.md R82), so every `Instr` is well formed. -/

namespace Sys2Proof

/-- The six inbound codes, in the order of R72. -/
def InCodes.toList (t : InCodes) : List Nat :=
  [t.echoRequest, t.setTime, t.reset, t.write, t.bufferSpaceRequest, t.readRequest]

/-- The four outbound codes, in the order of R73. -/
def OutCodes.toList (t : OutCodes) : List Nat :=
  [t.echoReply, t.bufferSpaceReply, t.readReplyNoEvent, t.readReply]

/-- Every width of R8, the fixed ones included. -/
def Config.widths (c : Config) : List Nat :=
  [c.ws, c.h, Config.wTs, Config.wPhy, Config.wSpace, Config.wOvf, Config.wRts, c.wCh, c.wWts, c.wAddr,
    c.wExtra, c.wShort, c.wTimeout, c.wRdata]

/-- 00_scope.md R9: (a) `WS >= H`; (b) and (c) each code map is injective with every code below `2^H`;
(d) every width is at least 1; (e) `W_TIMEOUT <= W_IO_TS`. -/
def Config.wellFormed (c : Config) : Bool :=
  decide (c.h ≤ c.ws)
  && (decide c.tcIn.toList.Nodup && c.tcIn.toList.all (fun n => decide (n < 2 ^ c.h)))
  && (decide c.tcOut.toList.Nodup && c.tcOut.toList.all (fun n => decide (n < 2 ^ c.h)))
  && c.widths.all (fun w => decide (1 ≤ w))
  && decide (c.wTimeout ≤ c.wIoTs)

/-- The number of payload words that follow the packet in its frame (30_encoding.md R77, R83). -/
def InPkt.payloadCount {c : Config} : InPkt c → Nat
  | .write _ _ _ extraWordCount _ => extraWordCount.toNat
  | .echoRequest | .setTime _ | .reset _ | .bufferSpaceRequest | .readRequest _ _ => 0

/-- An inbound frame: one packet and, for a Write, its payload words (20_memory.md R52; 30_encoding.md
R77, R85). -/
structure Frame (c : Config) where
  pkt : InPkt c
  payload : List (Word c)
  deriving DecidableEq, Repr

/-- The frame carries exactly its packet (70_reset_and_hazards.md R268). -/
def Frame.wellFormed {c : Config} (f : Frame c) : Bool :=
  decide (f.payload.length = f.pkt.payloadCount)

end Sys2Proof
end

