-- ==== Sys2Proof/Decode.lean ====
section
/-! DEFINITION. Decode.lean: the wire encoding of 30_encoding.md at any configuration: bit strings and
words (R70, R71), type codes (R72, R73), layouts (R75, R76), decoding (R80, R81, R83) and, after it, the
encoder (R70, R71, R77, R78). A bit string is held as the natural number whose binary digits it is, bit 0
the least significant (R11). -/

namespace Sys2Proof

/-! ### Bit strings (R11, R12, R71) -/

/-- `cat(a0, a1, ...)` of R12: `a0` in the least significant bits, each later part directly above. -/
def cat : List ((w : Nat) × BitVec w) → Nat
  | [] => 0
  | ⟨w, v⟩ :: rest => v.toNat + 2 ^ w * cat rest

/-- The field `B[lo+w-1 : lo]` (R11). -/
def fieldAt (w lo B : Nat) : BitVec w := BitVec.ofNat w (B >>> lo)

/-- Word `i` of a bit string, `B[i*WS+WS-1 : i*WS]` (R71). -/
def wordAt (ws B i : Nat) : BitVec ws := fieldAt ws (i * ws) B

/-- `cat(w[0], w[1], ..., w[n-1])` of R80. -/
def joinWords {ws : Nat} (words : List (BitVec ws)) : Nat :=
  cat (words.map fun v => ⟨ws, v⟩)

/-- The first `n` words of a bit string, word 0 first (R71). -/
def splitWords (ws B n : Nat) : List (BitVec ws) :=
  (List.range n).map (wordAt ws B)

/-! ### Type codes (R72, R73) -/

/-- `TC_IN(T)` (R72). -/
def Config.codeIn (c : Config) : InType → Nat
  | .echoRequest => c.tcIn.echoRequest
  | .setTime => c.tcIn.setTime
  | .reset => c.tcIn.reset
  | .write => c.tcIn.write
  | .bufferSpaceRequest => c.tcIn.bufferSpaceRequest
  | .readRequest => c.tcIn.readRequest

/-- `TC_OUT(T)` (R73). -/
def Config.codeOut (c : Config) : OutType → Nat
  | .echoReply => c.tcOut.echoReply
  | .bufferSpaceReply => c.tcOut.bufferSpaceReply
  | .readReplyNoEvent => c.tcOut.readReplyNoEvent
  | .readReply => c.tcOut.readReply

/-- The six inbound types, in the order of R72. -/
def InType.all : List InType :=
  [.echoRequest, .setTime, .reset, .write, .bufferSpaceRequest, .readRequest]

/-- The four outbound types, in the order of R73. -/
def OutType.all : List OutType :=
  [.echoReply, .bufferSpaceReply, .readReplyNoEvent, .readReply]

/-- The header code of a packet, `d[H-1:0]` of its first word (R70, R81). -/
def headerCode (c : Config) (d : Word c) : Nat := (fieldAt c.h 0 d.toNat).toNat

/-- The inbound type a header code names, if any (R81). -/
def typeOfCodeIn (c : Config) (code : Nat) : Option InType :=
  InType.all.find? fun T => decide (c.codeIn T = code)

/-- The outbound type a header code names, if any (R73). -/
def typeOfCodeOut (c : Config) (code : Nat) : Option OutType :=
  OutType.all.find? fun T => decide (c.codeOut T = code)

/-! ### Layouts (R75, R76) and lengths (R10) -/

/-- The field widths of an inbound packet, in wire order (R75; C1 for Write). -/
def Config.layoutIn (c : Config) : InType → List Nat
  | .echoRequest => []
  | .setTime => [Config.wTs]
  | .reset => [Config.wPhy]
  | .write => [c.wCh, c.wWts, c.wAddr, c.wExtra, c.wShort]
  | .bufferSpaceRequest => []
  | .readRequest => [c.wCh, c.wTimeout]

/-- The field widths of an outbound packet, in wire order (R76). -/
def Config.layoutOut (c : Config) : OutType → List Nat
  | .echoReply => []
  | .bufferSpaceReply => [Config.wSpace]
  | .readReplyNoEvent => [Config.wOvf]
  | .readReply => [Config.wRts, c.wRdata]

/-- `ceil(n / WS)`. -/
def Config.wordsFor (c : Config) (n : Nat) : Nat := (n + (c.ws - 1)) / c.ws

/-- `bits(T)` of an inbound type; for Write, without the payload words (R10). -/
def Config.bitsIn (c : Config) (T : InType) : Nat := c.h + (c.layoutIn T).sum

/-- `bits(T)` of an outbound type (R10). -/
def Config.bitsOut (c : Config) (T : OutType) : Nat := c.h + (c.layoutOut T).sum

/-- `L(T)` of an inbound type; for Write, the header part (R10, R71). -/
def Config.lenIn (c : Config) (T : InType) : Nat := c.wordsFor (c.bitsIn T)

/-- `L(T)` of an outbound type (R10, R71). -/
def Config.lenOut (c : Config) (T : OutType) : Nat := c.wordsFor (c.bitsOut T)

/-- `LMAX_IN` (R10). -/
def Config.lmaxIn (c : Config) : Nat := (InType.all.map c.lenIn).foldr max 0

/-- `LMAX_OUT` (10_state.md R36). -/
def Config.lmaxOut (c : Config) : Nat := (OutType.all.map c.lenOut).foldr max 0

/-! ### Decoding (R80, R81, R83) -/

/-- The inbound packet of type `T` whose words are `words` (R80): each field at its position of R75.
Padding bits are not read (R78). -/
def decodeIn (c : Config) (T : InType) (words : List (Word c)) : InPkt c :=
  let B := joinWords words
  match T with
  | .echoRequest => .echoRequest
  | .setTime => .setTime (fieldAt _ c.h B)
  | .reset => .reset (fieldAt _ c.h B)
  | .write =>
    let o1 := c.h
    let o2 := o1 + c.wCh
    let o3 := o2 + c.wWts
    let o4 := o3 + c.wAddr
    let o5 := o4 + c.wExtra
    .write (fieldAt _ o1 B) (fieldAt _ o2 B) (fieldAt _ o3 B) (fieldAt _ o4 B) (fieldAt _ o5 B)
  | .bufferSpaceRequest => .bufferSpaceRequest
  | .readRequest => .readRequest (fieldAt _ c.h B) (fieldAt _ (c.h + c.wCh) B)

/-- The outbound packet of type `T` whose words are `words`: the master's side of the link, the same bit
mapping (R84). -/
def decodeOut (c : Config) (T : OutType) (words : List (Word c)) : OutPkt c :=
  let B := joinWords words
  match T with
  | .echoReply => .echoReply
  | .bufferSpaceReply => .bufferSpaceReply (fieldAt _ c.h B)
  | .readReplyNoEvent => .readReplyNoEvent (fieldAt _ c.h B)
  | .readReply => .readReply (fieldAt _ c.h B) (fieldAt _ (c.h + Config.wRts) B)

/-- Why a list of words is no packet. -/
inductive DecodeReject where
  /-- No word at all. -/
  | noWords
  /-- The header code names no type of the direction (R81: UnknownPacketType). -/
  | unknownType (code : Nat)
  /-- Fewer words than the type declares (R83; 60_exceptions.md R242: PacketTruncated). -/
  | truncated (got need : Nat)
  deriving DecidableEq, Repr

/-- The words of one packet cut from the front of a list, given the length its header code declares. -/
def takePacket {α : Type} {ws : Nat} (words : List (BitVec ws)) (n : Nat) (read : List (BitVec ws) → α) :
    Except DecodeReject (α × List (BitVec ws)) :=
  if words.length < n then .error (.truncated words.length n)
  else .ok (read (words.take n), words.drop n)

/-- The inbound packet at the front of a list of words, with the words after it (R80, R81, R83). -/
def decodeInWords (c : Config) (words : List (Word c)) : Except DecodeReject (InPkt c × List (Word c)) :=
  match words with
  | [] => .error .noWords
  | d :: _ =>
    match typeOfCodeIn c (headerCode c d) with
    | none => .error (.unknownType (headerCode c d))
    | some T => takePacket words (c.lenIn T) (decodeIn c T)

/-- The outbound packet at the front of a list of words, with the words after it (R84). -/
def decodeOutWords (c : Config) (words : List (Word c)) : Except DecodeReject (OutPkt c × List (Word c)) :=
  match words with
  | [] => .error .noWords
  | d :: _ =>
    match typeOfCodeOut c (headerCode c d) with
    | none => .error (.unknownType (headerCode c d))
    | some T => takePacket words (c.lenOut T) (decodeOut c T)

/-- The instruction an inbound packet is. -/
def Instr.ofIn : InPkt Config.dflt → Instr
  | .echoRequest => .echoRequest
  | .setTime timestamp => .setTime timestamp
  | .reset phy => .reset phy
  | .write channel timestamp address extraWordCount shortData =>
    .write channel timestamp address extraWordCount shortData
  | .bufferSpaceRequest => .bufferSpaceRequest
  | .readRequest channel timeout => .readRequest channel timeout

/-- The instruction an outbound packet is. -/
def Instr.ofOut : OutPkt Config.dflt → Instr
  | .echoReply => .echoReply
  | .bufferSpaceReply space => .bufferSpaceReply space
  | .readReplyNoEvent overflow => .readReplyNoEvent overflow
  | .readReply timestamp data => .readReply timestamp data

/-- The direction an instruction travels in (R86). -/
def Instr.direction : Instr → Direction
  | .echoRequest | .setTime _ | .reset _ | .write _ _ _ _ _ | .bufferSpaceRequest | .readRequest _ _ => .inbound
  | .echoReply | .bufferSpaceReply _ | .readReplyNoEvent _ | .readReply _ _ => .outbound

/-- The instruction at the front of a list of words of the default configuration, with the words after
it. The direction is part of the question: the same code names different types in the two (R73, R86). -/
def decode (dir : Direction) (words : List (Word Config.dflt)) :
    Except DecodeReject (Instr × List (Word Config.dflt)) :=
  match dir with
  | .inbound =>
    match decodeInWords Config.dflt words with
    | .ok (p, rest) => .ok (Instr.ofIn p, rest)
    | .error e => .error e
  | .outbound =>
    match decodeOutWords Config.dflt words with
    | .ok (q, rest) => .ok (Instr.ofOut q, rest)
    | .error e => .error e

/-! ### Encoding (R70, R71, R77, R78) -/

/-- The fields of an inbound packet, in wire order (R75). -/
def InPkt.fields {c : Config} : InPkt c → List ((w : Nat) × BitVec w)
  | .echoRequest => []
  | .setTime timestamp => [⟨_, timestamp⟩]
  | .reset phy => [⟨_, phy⟩]
  | .write channel timestamp address extraWordCount shortData =>
    [⟨_, channel⟩, ⟨_, timestamp⟩, ⟨_, address⟩, ⟨_, extraWordCount⟩, ⟨_, shortData⟩]
  | .bufferSpaceRequest => []
  | .readRequest channel timeout => [⟨_, channel⟩, ⟨_, timeout⟩]

/-- The fields of an outbound packet, in wire order (R76). -/
def OutPkt.fields {c : Config} : OutPkt c → List ((w : Nat) × BitVec w)
  | .echoReply => []
  | .bufferSpaceReply space => [⟨_, space⟩]
  | .readReplyNoEvent overflow => [⟨_, overflow⟩]
  | .readReply timestamp data => [⟨_, timestamp⟩, ⟨_, data⟩]

/-- `B` of an inbound packet: its code, then its fields; the padding above is 0 (R70, R78). -/
def InPkt.bitString {c : Config} (p : InPkt c) : Nat :=
  cat (⟨c.h, BitVec.ofNat c.h (c.codeIn p.type)⟩ :: p.fields)

/-- `B` of an outbound packet (R70, R78). -/
def OutPkt.bitString {c : Config} (q : OutPkt c) : Nat :=
  cat (⟨c.h, BitVec.ofNat c.h (c.codeOut q.type)⟩ :: q.fields)

/-- The words of an inbound packet, word 0 first (R71); for a Write, its header part. -/
def encodeIn {c : Config} (p : InPkt c) : List (Word c) :=
  splitWords c.ws p.bitString (c.lenIn p.type)

/-- The words of an outbound packet, word 0 first (R71). -/
def encodeOut {c : Config} (q : OutPkt c) : List (Word c) :=
  splitWords c.ws q.bitString (c.lenOut q.type)

/-- The words of a frame: the packet, then the payload words whole (R77). -/
def Frame.words {c : Config} (f : Frame c) : List (Word c) := encodeIn f.pkt ++ f.payload

/-- The inbound packet an instruction is, if it is one. -/
def Instr.toIn : Instr → Option (InPkt Config.dflt)
  | .echoRequest => some .echoRequest
  | .setTime timestamp => some (.setTime timestamp)
  | .reset phy => some (.reset phy)
  | .write channel timestamp address extraWordCount shortData =>
    some (.write channel timestamp address extraWordCount shortData)
  | .bufferSpaceRequest => some .bufferSpaceRequest
  | .readRequest channel timeout => some (.readRequest channel timeout)
  | .echoReply | .bufferSpaceReply _ | .readReplyNoEvent _ | .readReply _ _ => none

/-- The words of an instruction at the default configuration (R79). -/
def encode : Instr → List (Word Config.dflt)
  | .echoRequest => encodeIn (.echoRequest : InPkt Config.dflt)
  | .setTime timestamp => encodeIn (.setTime timestamp : InPkt Config.dflt)
  | .reset phy => encodeIn (.reset phy : InPkt Config.dflt)
  | .write channel timestamp address extraWordCount shortData =>
    encodeIn (.write channel timestamp address extraWordCount shortData : InPkt Config.dflt)
  | .bufferSpaceRequest => encodeIn (.bufferSpaceRequest : InPkt Config.dflt)
  | .readRequest channel timeout => encodeIn (.readRequest channel timeout : InPkt Config.dflt)
  | .echoReply => encodeOut (.echoReply : OutPkt Config.dflt)
  | .bufferSpaceReply space => encodeOut (.bufferSpaceReply space : OutPkt Config.dflt)
  | .readReplyNoEvent overflow => encodeOut (.readReplyNoEvent overflow : OutPkt Config.dflt)
  | .readReply timestamp data => encodeOut (.readReply timestamp data : OutPkt Config.dflt)

/-! ### The host's question -/

/-- The words of an instruction whose bits are `w`, bit 0 the least significant bit of word 0; every bit
from `nbits` up is 0, to the longest packet. -/
def tableWords (nbits w : Nat) : List (Word Config.dflt) :=
  splitWords Config.dflt.ws (w % 2 ^ nbits) (max Config.dflt.lmaxIn Config.dflt.lmaxOut)

/-- The instruction the engine's receiver reads from the bits `w`. The words stand on the receive link,
so the direction is inbound: the outbound rows of the table have the codes of inbound rows (R73), and the
receiver reads those (log entry 10). -/
def decodeTableWord (nbits w : Nat) : Option Instr :=
  match decode .inbound (tableWords nbits w) with
  | .ok (i, _) => some i
  | .error _ => none

end Sys2Proof
end

