-- ==== Sys2Proof/Machine/State.lean ====
section
/-! DEFINITION. Machine/State.lean: the registers R21 to R36 and the ports R37 of 10_state.md, at any
configuration; the host's `State` (the engine at the default configuration, its ports and the draw
counter); the reasons a step can stop; the state after reset. -/

namespace Sys2Proof.Machine

/-- The states of Receive Dispatch (10_state.md R21). -/
inductive RxState where
  | idle
  | handlingSetTime
  | handlingReset
  | handlingWrite
  | handlingBufferSpaceRequest
  | handlingReadRequest
  deriving DecidableEq, Repr

/-- The states of Reply Generation (10_state.md R22). -/
inductive TxState where
  | idle
  | echo
  | bufferSpaceReply
  | readTimeout
  | readOverflow
  | read
  deriving DecidableEq, Repr

/-- The registers only the receive process writes (10_state.md R21, R23 to R30; ownership R40). -/
structure RxRegs (c : Config) where
  /-- `rx_state`, R21. -/
  state : RxState
  /-- `frame_prev`, R23. -/
  framePrev : Bool
  /-- `asm_busy`, R24. -/
  asmBusy : Bool
  /-- `asm_type`, R25. -/
  asmType : InType
  /-- `asm_idx`, R26. -/
  asmIdx : Nat
  /-- `asm_buf`, R27. -/
  asmBuf : Vector (Word c) c.lmaxIn
  /-- `pkt`, R28; `none` is the empty register. -/
  pkt : Option (InPkt c)
  /-- `acc_cnt`, R29. -/
  accCnt : BitVec c.wExtra
  /-- `acc_words`, R30. -/
  accWords : Vector (Word c) c.nmax
  deriving DecidableEq, Repr

/-- The registers only the reply process writes (10_state.md R22, R35, R36; ownership R40). -/
structure TxRegs (c : Config) where
  /-- `tx_state`, R22. -/
  state : TxState
  /-- `em_pkt`, R35; `none` is the empty register. -/
  emPkt : Option (OutPkt c)
  /-- `em_idx`, R36. -/
  emIdx : Nat
  deriving DecidableEq, Repr

/-- `rr`, the ReadRequestSlot (10_state.md R33). -/
structure ReadSlot (c : Config) where
  channel : BitVec c.wCh
  timeout : BitVec c.wTimeout
  pending : Bool
  deriving DecidableEq, Repr

/-- The four registers the two processes share (10_state.md R31 to R34; 45_tick_and_flow_control.md R223). -/
structure FlowRegs (c : Config) where
  /-- `buffer_space`, R31. -/
  bufferSpace : BitVec Config.wSpace
  /-- `bs_req`, R32. -/
  bsReq : Bool
  /-- `rr`, R33. -/
  rr : ReadSlot c
  /-- `echo_req`, R34. -/
  echoReq : Bool
  deriving DecidableEq, Repr

/-- The registers of the engine (10_state.md section 2). -/
structure Engine (c : Config) where
  rx : RxRegs c
  tx : TxRegs c
  flow : FlowRegs c
  deriving DecidableEq, Repr

/-- The input ports of one tick (10_state.md R37). -/
structure Inputs (c : Config) where
  rst : Bool
  rxFrameActive : Bool
  rxData : Word c
  ioStatusPending : Bool
  ioStatusTimedOut : Bool
  ioStatusOverflowed : Bool
  ioResultTimestamp : BitVec Config.wRts
  ioResultData : BitVec c.wRdata
  ioBufferSpace : BitVec Config.wSpace
  deriving DecidableEq, Repr

/-- The values of `io_cmd` (10_state.md R37; 20_memory.md R53). -/
inductive IoCmd where
  | none
  | write
  | read
  deriving DecidableEq, Repr

/-- The output ports only the receive process drives (10_state.md R37; 45_tick_and_flow_control.md R224). -/
structure RxPorts (c : Config) where
  ioCmd : IoCmd
  ioChannel : BitVec c.wCh
  ioTimestamp : BitVec c.wIoTs
  ioAddress : BitVec c.wAddr
  ioData : BitVec c.wWdata
  tscLoad : Bool
  tscValue : BitVec Config.wTs
  resetOut : Bool
  resetPhyOut : Bool
  unknownPacketType : Bool
  packetTruncated : Bool
  deriving DecidableEq, Repr

/-- The output ports only the reply process drives (10_state.md R37; 45_tick_and_flow_control.md R224). -/
structure TxPorts (c : Config) where
  txFrameActive : Bool
  txData : Word c
  txLastWord : Bool
  deriving DecidableEq, Repr

/-- The output ports of one tick (10_state.md R37). -/
structure Outputs (c : Config) where
  rx : RxPorts c
  tx : TxPorts c
  deriving DecidableEq, Repr

/-- The draws of one tick (45_tick_and_flow_control.md R215, R226; 00_scope.md R14). -/
structure Draws (c : Config) where
  /-- The choice of 43_reply_generation.md R177: `true` is Timeout, `false` is Overflow. -/
  choosesTimeout : Bool
  /-- `tx_data` while undriven (10_state.md R38). -/
  txData : Word c
  /-- `io_channel` while undriven (10_state.md R38). -/
  ioChannel : BitVec c.wCh
  /-- `io_timestamp` while undriven (10_state.md R38). -/
  ioTimestamp : BitVec c.wIoTs
  /-- `io_address` while undriven, and of a read command (10_state.md R38; 42_receive_dispatch.md R150). -/
  ioAddress : BitVec c.wAddr
  /-- `io_data` while undriven, and of a read command (10_state.md R38; 42_receive_dispatch.md R150). -/
  ioData : BitVec c.wWdata
  /-- `tsc_value` while undriven (10_state.md R38). -/
  tscValue : BitVec Config.wTs
  /-- `asm_type` after an `rst` tick (70_reset_and_hazards.md R260: unspecified). -/
  asmType : InType
  /-- `asm_buf` after an `rst` tick (70_reset_and_hazards.md R260: unspecified). -/
  asmBuf : Vector (Word c) c.lmaxIn
  deriving DecidableEq, Repr

/-- The draws of tick number `tick`: free values, of which nothing is known (00_scope.md R14; log entry 4). -/
def Draws.free (c : Config) (tick : Nat) : Draws c where
  choosesTimeout := Config.freeBit .readOutcome tick
  txData := Config.freeBits .txData tick c.ws
  ioChannel := Config.freeBits .ioChannel tick c.wCh
  ioTimestamp := Config.freeBits .ioTimestamp tick c.wIoTs
  ioAddress := Config.freeBits .ioAddress tick c.wAddr
  ioData := Config.freeBits .ioData tick c.wWdata
  tscValue := Config.freeBits .tscValue tick Config.wTs
  asmType := Config.freeInType tick
  asmBuf := Vector.ofFn fun i => Config.freeBits (.asmBuf i.val) tick c.ws

/-- The input ports of tick number `tick` where nothing lists them: free values (70_reset_and_hazards.md
R275: a liberty is a free input; log entry 3). -/
def Inputs.free (c : Config) (tick : Nat) : Inputs c where
  rst := Config.freeBit .rst tick
  rxFrameActive := Config.freeBit .rxFrameActive tick
  rxData := Config.freeBits .rxData tick c.ws
  ioStatusPending := Config.freeBit .ioStatusPending tick
  ioStatusTimedOut := Config.freeBit .ioStatusTimedOut tick
  ioStatusOverflowed := Config.freeBit .ioStatusOverflowed tick
  ioResultTimestamp := Config.freeBits .ioResultTimestamp tick Config.wRts
  ioResultData := Config.freeBits .ioResultData tick c.wRdata
  ioBufferSpace := Config.freeBits .ioBufferSpace tick Config.wSpace

/-- The outputs of a tick in which no rule drives any (10_state.md R38). -/
def RxPorts.defaults {c : Config} (dr : Draws c) : RxPorts c where
  ioCmd := .none
  ioChannel := dr.ioChannel
  ioTimestamp := dr.ioTimestamp
  ioAddress := dr.ioAddress
  ioData := dr.ioData
  tscLoad := false
  tscValue := dr.tscValue
  resetOut := false
  resetPhyOut := false
  unknownPacketType := false
  packetTruncated := false

/-- The transmit outputs of a tick in which the emitter drives none (10_state.md R38; 44_packet_emitter.md R203). -/
def TxPorts.defaults {c : Config} (dr : Draws c) : TxPorts c where
  txFrameActive := false
  txData := dr.txData
  txLastWord := false

/-- Every output at its default (10_state.md R38). -/
def Outputs.defaults {c : Config} (dr : Draws c) : Outputs c where
  rx := .defaults dr
  tx := .defaults dr

/-- The reset values of 10_state.md R45 and 70_reset_and_hazards.md R260. The two registers they leave
unspecified are arguments. -/
def Engine.resetWith {c : Config} (asmType : InType) (asmBuf : Vector (Word c) c.lmaxIn) : Engine c where
  rx :=
    { state := .idle, framePrev := false, asmBusy := false, asmType := asmType, asmIdx := 0, asmBuf := asmBuf
      pkt := none, accCnt := 0, accWords := Vector.replicate c.nmax 0 }
  tx := { state := .idle, emPkt := none, emIdx := 0 }
  flow := { bufferSpace := 0, bsReq := false, rr := { channel := 0, timeout := 0, pending := false }, echoReq := false }

/-- Why a step stops with a fault: the two guards 60_exceptions.md R244 allows a model, on the read of an
empty `pkt` or `em_pkt`. By 10_state.md R43 no run from reset reaches one. -/
inductive Fault where
  /-- Raised by the receive process: a handling state reads an empty `pkt` (R43: by I4 this never occurs). Safe. -/
  | emptyPkt
  /-- Raised by the reply process: a reply state reads an empty `em_pkt` (R43: by I5 this never occurs). Safe. -/
  | emptyEmPkt
  deriving DecidableEq, Repr

/-- Why an instruction has no meaning. -/
inductive Refusal where
  /-- Raised by `exec` for a row of the opcode table that has no meaning yet; no arm does. Safe. -/
  | notModelled (mnemonic : String)
  deriving DecidableEq, Repr

/-- The engine at the default configuration with its ports (10_state.md), as the host's step sees it. -/
structure State where
  /-- Every register of the engine, R21 to R36. -/
  eng : Engine Config.dflt
  /-- The input ports of the ticks to come, oldest first (R37); past the end they are free (log entry 3). -/
  inputs : List (Inputs Config.dflt)
  /-- The output ports of the last tick (R37). -/
  out : Outputs Config.dflt
  /-- The model's own: the number of the next tick, which its draws are taken at (45_tick_and_flow_control.md
  R226; log entry 4). -/
  tick : Nat
  deriving DecidableEq, Repr

/-- The state after one tick with `rst = 1` (70_reset_and_hazards.md R260, R261, R264). DESIGN CHOICE:
`asm_type` is EchoRequest and `asm_buf` is 0, where the spec leaves both unspecified (log entry 5); the
`rst` tick was number 0, and no inputs are listed (log entries 3 and 4). -/
def State.reset : State where
  eng := .resetWith .echoRequest (Vector.replicate _ 0)
  inputs := []
  out := .defaults (.free Config.dflt 0)
  tick := 1

end Sys2Proof.Machine
end

