-- ==== Sys2Proof/Machine/Ops.lean ====
section
/-! DEFINITION. Machine/Ops.lean: the named operations of the pseudocode (00_scope.md R13) over the
registers and ports: what each process yields in a tick (45_tick_and_flow_control.md R216, R217), the
next-state, submit, pulse and raise operations, `AccClear`, the sampling of the ports, and the commit of
a tick. The engine takes no exception and returns from none (60_exceptions.md R247): `raise` is the whole
of its error mechanism (R240). -/

namespace Sys2Proof.Machine

/-! ### What each process yields -/

/-- The handshake signals of the receive process (45_tick_and_flow_control.md R217). -/
structure RxSignals (c : Config) where
  echoSet : Bool
  bsSet : Bool
  /-- `bs_update` with `bs_value`. -/
  bsUpdate : Option (BitVec Config.wSpace)
  /-- `rr_load` with `rr_channel` and `rr_timeout`. -/
  rrLoad : Option (BitVec c.wCh × BitVec c.wTimeout)
  softReset : Bool
  deriving DecidableEq, Repr

/-- The handshake signals of the reply process (45_tick_and_flow_control.md R217). -/
structure TxSignals where
  bsClear : Bool
  rrClear : Bool
  deriving DecidableEq, Repr

/-- No signal of the receive process is asserted. -/
def RxSignals.quiet {c : Config} : RxSignals c where
  echoSet := false
  bsSet := false
  bsUpdate := none
  rrLoad := none
  softReset := false

/-- No signal of the reply process is asserted. -/
def TxSignals.quiet : TxSignals where
  bsClear := false
  rrClear := false

/-- What the Packet Assembler yields in a tick (40_packet_assembler.md): its register writes, the packet
it exposes (`pkt_done` and `done_pkt`, R108) and the conditions it raises. -/
structure AsmResult (c : Config) where
  regs : RxRegs c
  done : Option (InPkt c)
  unknownType : Bool
  truncated : Bool
  deriving DecidableEq, Repr

/-- What the receive process yields in a tick (45_tick_and_flow_control.md R216, step 1). -/
structure RxResult (c : Config) where
  regs : RxRegs c
  ports : RxPorts c
  sig : RxSignals c
  deriving DecidableEq, Repr

/-- What the reply process yields in a tick (45_tick_and_flow_control.md R216, step 2). -/
structure TxResult (c : Config) where
  regs : TxRegs c
  ports : TxPorts c
  sig : TxSignals
  deriving DecidableEq, Repr

/-- What an inbound packet's rule reads in a tick: the committed registers, what the assembler yields in
the tick, the input ports and the draws. -/
structure RxTick (c : Config) where
  s : RxRegs c
  asm : AsmResult c
  inp : Inputs c
  dr : Draws c
  deriving DecidableEq, Repr

/-- What an outbound packet's rule reads in a tick: the committed registers and the draws. -/
structure TxTick (c : Config) where
  s : TxRegs c
  dr : Draws c
  deriving DecidableEq, Repr

/-! ### Primitives of the receive process (00_scope.md R13) -/

/-- The tick before any packet's rule adds to it: the assembler's writes and conditions, every other
output at its default, no signal. -/
def RxTick.base {c : Config} (t : RxTick c) : RxResult c where
  regs := t.asm.regs
  ports :=
    { RxPorts.defaults t.dr with unknownPacketType := t.asm.unknownType, packetTruncated := t.asm.truncated }
  sig := .quiet

/-- `state' <- S` of Receive Dispatch. -/
def RxResult.goto {c : Config} (r : RxResult c) (S : RxState) : RxResult c :=
  { r with regs := { r.regs with state := S } }

/-- `Submit(cmd, channel, timestamp, address, data)`, the timestamp zero-extended to `W_IO_TS`
(20_memory.md R54). -/
def RxResult.submit {c : Config} {w : Nat} (r : RxResult c) (cmd : IoCmd) (channel : BitVec c.wCh)
    (timestamp : BitVec w) (address : BitVec c.wAddr) (data : BitVec c.wWdata) : RxResult c :=
  { r with ports :=
      { r.ports with
        ioCmd := cmd, ioChannel := channel, ioTimestamp := timestamp.setWidth c.wIoTs
        ioAddress := address, ioData := data } }

/-- `Pulse(tsc_load)` with `tsc_value` (42_receive_dispatch.md R146). -/
def RxResult.pulseTscLoad {c : Config} (r : RxResult c) (value : BitVec Config.wTs) : RxResult c :=
  { r with ports := { r.ports with tscLoad := true, tscValue := value } }

/-- `Pulse(reset_out)` (42_receive_dispatch.md R147). -/
def RxResult.pulseResetOut {c : Config} (r : RxResult c) : RxResult c :=
  { r with ports := { r.ports with resetOut := true } }

/-- `Pulse(reset_phy_out)` (42_receive_dispatch.md R147). -/
def RxResult.pulseResetPhyOut {c : Config} (r : RxResult c) : RxResult c :=
  { r with ports := { r.ports with resetPhyOut := true } }

/-- `raise PacketTruncated` (60_exceptions.md R240, R242). -/
def RxResult.raiseTruncated {c : Config} (r : RxResult c) : RxResult c :=
  { r with ports := { r.ports with packetTruncated := true } }

/-- Assert handshake signals (45_tick_and_flow_control.md R217). -/
def RxResult.signal {c : Config} (r : RxResult c) (sig : RxSignals c) : RxResult c :=
  { r with sig := sig }

/-- `AccClear` (41_write_accumulator.md R121). -/
def RxResult.accClear {c : Config} (r : RxResult c) : RxResult c :=
  { r with regs := { r.regs with accCnt := 0, accWords := Vector.replicate c.nmax 0 } }

/-- `acc_words[acc_cnt] <- d; acc_cnt <- acc_cnt + 1` (41_write_accumulator.md R123), over the committed
accumulator `s`. -/
def RxResult.accPush {c : Config} (r : RxResult c) (s : RxRegs c) (d : Word c) : RxResult c :=
  { r with regs :=
      { r.regs with accWords := s.accWords.setIfInBounds s.accCnt.toNat d, accCnt := s.accCnt + 1 } }

/-! ### The reset step and the ports -/

/-- The default bit encoding of `io_cmd`, for a reader that needs bits (92_eei_decisions.md D19;
93_implementation_defined.md U16). No rule reads it. -/
def IoCmd.code : IoCmd → BitVec 2
  | .none => 0
  | .write => 1
  | .read => 2

/-- The registers after a tick with `rst = 1` (70_reset_and_hazards.md R260): the two unspecified ones
take draws. -/
def Engine.resetTick {c : Config} (dr : Draws c) : Engine c := .resetWith dr.asmType dr.asmBuf

/-- The input ports of the next tick: the first listed, or free values where none is (log entry 3). -/
def State.nextInputs (s : State) : Inputs Config.dflt :=
  match s.inputs with
  | inp :: _ => inp
  | [] => .free Config.dflt s.tick

/-- The draws of the next tick (45_tick_and_flow_control.md R226; log entry 4). -/
def State.draws (s : State) : Draws Config.dflt := .free Config.dflt s.tick

/-- Commit a tick: its register values become the state, its outputs the ports, its inputs are used up. -/
def State.commit (s : State) (r : Except Fault (Engine Config.dflt × Outputs Config.dflt)) :
    Host.Outcome State Fault Refusal :=
  match r with
  | .ok (eng, out) => .next { eng := eng, inputs := s.inputs.tail, out := out, tick := s.tick + 1 }
  | .error f => .fault f

end Sys2Proof.Machine
end

