-- ==== Sys2Proof/Machine/Assembler.lean ====
section
/-! DEFINITION. Machine/Assembler.lean: the Packet Assembler (40_packet_assembler.md R101 to R108). -/

namespace Sys2Proof.Machine

/-- `rising` of 40_packet_assembler.md R101. -/
def rising {c : Config} (s : RxRegs c) (fa : Bool) : Bool := fa && !s.framePrev

/-- A tick that starts, completes and raises nothing: only `frame_prev` changes (40_packet_assembler.md
R101, R102). -/
def asmQuiet {c : Config} (s : RxRegs c) (fa : Bool) : AsmResult c where
  regs := { s with framePrev := fa }
  done := none
  unknownType := false
  truncated := false

/-- The tick that exposes packet `P` (40_packet_assembler.md R108). Where it ends a multi-word packet,
`asm_busy` and `asm_idx` return to 0 (R106). -/
def asmComplete {c : Config} (s : RxRegs c) (fa : Bool) (P : InPkt c) : AsmResult c where
  regs :=
    { s with
      framePrev := fa, pkt := some P, asmBusy := false, asmIdx := if s.asmBusy then 0 else s.asmIdx }
  done := some P
  unknownType := false
  truncated := false

/-- The first word of a multi-word packet (40_packet_assembler.md R104). -/
def asmStart {c : Config} (s : RxRegs c) (fa : Bool) (T : InType) (d : Word c) : AsmResult c where
  regs :=
    { s with
      framePrev := fa, asmBusy := true, asmType := T, asmBuf := s.asmBuf.setIfInBounds 0 d, asmIdx := 1 }
  done := none
  unknownType := false
  truncated := false

/-- An inner word of a multi-word packet (40_packet_assembler.md R106, second branch). By 10_state.md R43 (I1)
`asm_buf` has a place for it; where it has none, only the index moves on (log entry 6). -/
def asmStore {c : Config} (s : RxRegs c) (fa : Bool) (d : Word c) : AsmResult c where
  regs :=
    { s with framePrev := fa, asmBuf := s.asmBuf.setIfInBounds s.asmIdx d, asmIdx := s.asmIdx + 1 }
  done := none
  unknownType := false
  truncated := false

/-- `raise UnknownPacketType` (40_packet_assembler.md R105; 60_exceptions.md R241). -/
def asmUnknown {c : Config} (s : RxRegs c) (fa : Bool) : AsmResult c :=
  { asmQuiet s fa with unknownType := true }

/-- `raise PacketTruncated`, the words collected so far abandoned (40_packet_assembler.md R107;
60_exceptions.md R242 (a)). -/
def asmTruncate {c : Config} (s : RxRegs c) (fa : Bool) : AsmResult c where
  regs := { s with framePrev := fa, asmBusy := false, asmIdx := 0 }
  done := none
  unknownType := false
  truncated := true

/-- The words of the packet in progress with the word on the link after them (40_packet_assembler.md R106). -/
def asmWords {c : Config} (s : RxRegs c) (d : Word c) : List (Word c) :=
  s.asmBuf.toList.take s.asmIdx ++ [d]

/-- The word of a rising edge in `Idle`, by its header code (40_packet_assembler.md R103 to R105). -/
def asmHeader {c : Config} (s : RxRegs c) (fa : Bool) (d : Word c) : AsmResult c :=
  match typeOfCodeIn c (headerCode c d) with
  | none => asmUnknown s fa
  | some T => if c.lenIn T = 1 then asmComplete s fa (decodeIn c T [d]) else asmStart s fa T d

/-- A further word of a packet in progress (40_packet_assembler.md R106). -/
def asmCollect {c : Config} (s : RxRegs c) (fa : Bool) (d : Word c) : AsmResult c :=
  if s.asmIdx + 1 = c.lenIn s.asmType then asmComplete s fa (decodeIn c s.asmType (asmWords s d))
  else asmStore s fa d

/-- The Packet Assembler in a tick with `rst = 0` (40_packet_assembler.md R101 to R108). -/
def assemble {c : Config} (s : RxRegs c) (inp : Inputs c) : AsmResult c :=
  let fa := inp.rxFrameActive
  let d := inp.rxData
  if s.asmBusy then
    if fa then asmCollect s fa d else asmTruncate s fa
  else if rising s fa && decide (s.state = .idle) then asmHeader s fa d
  else asmQuiet s fa

end Sys2Proof.Machine
end

