-- ==== Sys2Proof/Machine/Flags.lean ====
section
/-! DEFINITION. Machine/Flags.lean: the merge of the flow-control registers the two processes share
(45_tick_and_flow_control.md R218 to R221). The engine has no arithmetic flags (10_state.md R20). -/

namespace Sys2Proof.Machine

/-- The buffer-space-request latch: a set wins over a clear (45_tick_and_flow_control.md R218). -/
def mergeBsReq {c : Config} (bsReq : Bool) (r : RxSignals c) (t : TxSignals) : Bool :=
  if r.bsSet then true
  else if t.bsClear || r.softReset then false
  else bsReq

/-- The BufferSpace value: only a snapshot changes it (45_tick_and_flow_control.md R219). -/
def mergeBufferSpace {c : Config} (bufferSpace : BitVec Config.wSpace) (r : RxSignals c) :
    BitVec Config.wSpace :=
  match r.bsUpdate with
  | some value => value
  | none => bufferSpace

/-- The ReadRequestSlot: a load wins, then the soft reset, then the clear of `pending`
(45_tick_and_flow_control.md R220). -/
def mergeReadSlot {c : Config} (rr : ReadSlot c) (r : RxSignals c) (t : TxSignals) : ReadSlot c :=
  match r.rrLoad with
  | some (channel, timeout) => { channel := channel, timeout := timeout, pending := true }
  | none =>
    if r.softReset then { channel := 0, timeout := 0, pending := false }
    else if t.rrClear then { rr with pending := false }
    else rr

/-- The shared registers of the next tick; `echo_req` is the registered copy of `echo_set`
(45_tick_and_flow_control.md R218 to R221). -/
def mergeFlow {c : Config} (f : FlowRegs c) (r : RxSignals c) (t : TxSignals) : FlowRegs c where
  bufferSpace := mergeBufferSpace f.bufferSpace r
  bsReq := mergeBsReq f.bsReq r t
  rr := mergeReadSlot f.rr r t
  echoReq := r.echoSet

end Sys2Proof.Machine
end

