-- ==== Sys2Proof/Machine/Operands.lean ====
section
/-! DEFINITION. Machine/Operands.lean: the values the rules form from registers and ports: the data of a
write command (41_write_accumulator.md R122), the outcome of a read (43_reply_generation.md R171, R177)
and the reply chosen in an `Idle` tick (R171). -/

namespace Sys2Proof.Machine

/-- `AccData`: `cat(short_data, acc_words[0], ..., acc_words[NMAX-1])`, of width `W_WDATA`
(41_write_accumulator.md R122). -/
def accData {c : Config} (shortData : BitVec c.wShort) (accWords : Vector (Word c) c.nmax) :
    BitVec c.wWdata :=
  BitVec.ofNat c.wWdata (cat (⟨_, shortData⟩ :: accWords.toList.map fun v => ⟨_, v⟩))

/-- The outcome of a resolved read (43_reply_generation.md R171). -/
inductive ReadOutcome where
  | timeout
  | overflow
  | ok
  deriving DecidableEq, Repr

/-- The outcome the status inputs show; with both error flags the draw decides (43_reply_generation.md
R171, R177). -/
def readOutcome {c : Config} (inp : Inputs c) (dr : Draws c) : ReadOutcome :=
  match inp.ioStatusTimedOut, inp.ioStatusOverflowed with
  | true, true => if dr.choosesTimeout then .timeout else .overflow
  | true, false => .timeout
  | false, true => .overflow
  | false, false => .ok

/-- The reply that reports a read's outcome (43_reply_generation.md R171, R174 to R176). -/
def readReply {c : Config} (inp : Inputs c) (dr : Draws c) : OutPkt c :=
  match readOutcome inp dr with
  | .timeout => .readReplyNoEvent 0
  | .overflow => .readReplyNoEvent 1
  | .ok => .readReply inp.ioResultTimestamp inp.ioResultData

/-- The reply an `Idle` tick chooses, if any: echo, then buffer space, then a resolved read
(43_reply_generation.md R170, R171). -/
def chooseReply {c : Config} (flow : FlowRegs c) (inp : Inputs c) (dr : Draws c) : Option (OutPkt c) :=
  if flow.echoReq then some .echoReply
  else if flow.bsReq then some (.bufferSpaceReply flow.bufferSpace)
  else if flow.rr.pending && !inp.ioStatusPending then some (readReply inp dr)
  else none

end Sys2Proof.Machine
end

