-- ==== Sys2Proof/Machine/InboundPackets.lean ====
section
/-! DEFINITION. Machine/InboundPackets.lean: the rules of the six inbound packets
(42_receive_dispatch.md R145 to R150), each over the whole of its life in Receive Dispatch: the `Idle`
tick in which the packet completes (R142) and its handling state (R143; for Write,
41_write_accumulator.md R123 to R125). No run reaches the handling state of one packet with another packet
in `pkt` (10_state.md R43 I4); there a packet's rule writes nothing, so every register keeps its value and
every output is at its default (00_scope.md R13; log entry 6). -/

namespace Sys2Proof.Machine

/-- `EchoRequest` (42_receive_dispatch.md R145): no handling state (90_conflicts.md C8). -/
def rxEchoRequest {c : Config} (t : RxTick c) : RxResult c :=
  match t.s.state with
  | .idle => (t.base.signal { RxSignals.quiet (c := c) with echoSet := true }).goto .idle
  | .handlingSetTime | .handlingReset | .handlingWrite | .handlingBufferSpaceRequest | .handlingReadRequest => t.base

/-- `SetTime` (42_receive_dispatch.md R146). -/
def rxSetTime {c : Config} (timestamp : BitVec Config.wTs) (t : RxTick c) : RxResult c :=
  match t.s.state with
  | .idle => t.base.goto .handlingSetTime
  | .handlingSetTime => (t.base.pulseTscLoad timestamp).goto .idle
  | .handlingReset | .handlingWrite | .handlingBufferSpaceRequest | .handlingReadRequest => t.base

/-- The side effect of `Reset` (42_receive_dispatch.md R147; 70_reset_and_hazards.md R263). -/
def resetEffect {c : Config} (phy : BitVec Config.wPhy) (t : RxTick c) : RxResult c :=
  if phy = 1 then t.base.pulseResetPhyOut
  else t.base.pulseResetOut.signal { RxSignals.quiet (c := c) with softReset := true }

/-- `Reset` (42_receive_dispatch.md R147). -/
def rxReset {c : Config} (phy : BitVec Config.wPhy) (t : RxTick c) : RxResult c :=
  match t.s.state with
  | .idle => t.base.goto .handlingReset
  | .handlingReset => (resetEffect phy t).goto .idle
  | .handlingSetTime | .handlingWrite | .handlingBufferSpaceRequest | .handlingReadRequest => t.base

/-- A `HandlingWrite` tick: consume, truncate or complete (41_write_accumulator.md R123, R124, R125). Above the
declared count, which no run reaches (10_state.md R43 I3), none of the three rules applies and every register
keeps its value (00_scope.md R13; log entry 6). -/
def handleWrite {c : Config} (channel : BitVec c.wCh) (timestamp : BitVec c.wWts) (address : BitVec c.wAddr)
    (extraWordCount : BitVec c.wExtra) (shortData : BitVec c.wShort) (t : RxTick c)  : RxResult c :=
  if t.s.accCnt < extraWordCount then
    if t.inp.rxFrameActive then (t.base.accPush t.s t.inp.rxData).goto .handlingWrite
    else t.base.raiseTruncated.accClear.goto .idle
  else if t.s.accCnt = extraWordCount then
    (t.base.submit .write channel timestamp address (accData shortData t.s.accWords)).accClear.goto .idle
  else t.base

/-- `Write` (42_receive_dispatch.md R148). -/
def rxWrite {c : Config} (channel : BitVec c.wCh) (timestamp : BitVec c.wWts) (address : BitVec c.wAddr)
    (extraWordCount : BitVec c.wExtra) (shortData : BitVec c.wShort) (t : RxTick c)  : RxResult c :=
  match t.s.state with
  | .idle => t.base.goto .handlingWrite
  | .handlingWrite => handleWrite channel timestamp address extraWordCount shortData t
  | .handlingSetTime | .handlingReset | .handlingBufferSpaceRequest | .handlingReadRequest => t.base

/-- `BufferSpaceRequest` (42_receive_dispatch.md R149). -/
def rxBufferSpaceRequest {c : Config} (t : RxTick c) : RxResult c :=
  match t.s.state with
  | .idle => t.base.goto .handlingBufferSpaceRequest
  | .handlingBufferSpaceRequest =>
    (t.base.signal
      { RxSignals.quiet (c := c) with bsSet := true, bsUpdate := some t.inp.ioBufferSpace }).goto .idle
  | .handlingSetTime | .handlingReset | .handlingWrite | .handlingReadRequest => t.base

/-- `ReadRequest` (42_receive_dispatch.md R150): the address and data of the command are draws (D16). -/
def rxReadRequest {c : Config} (channel : BitVec c.wCh) (timeout : BitVec c.wTimeout) (t : RxTick c)  : RxResult c :=
  match t.s.state with
  | .idle => t.base.goto .handlingReadRequest
  | .handlingReadRequest =>
    ((t.base.submit .read channel timeout t.dr.ioAddress t.dr.ioData).signal
      { RxSignals.quiet (c := c) with rrLoad := some (channel, timeout) }).goto .idle
  | .handlingSetTime | .handlingReset | .handlingWrite | .handlingBufferSpaceRequest => t.base

/-- The rule of the tick's inbound packet (42_receive_dispatch.md R140). -/
def rxPacket {c : Config} (p : InPkt c) (t : RxTick c) : RxResult c :=
  match p with
  | .echoRequest => rxEchoRequest t
  | .setTime timestamp => rxSetTime timestamp t
  | .reset phy => rxReset phy t
  | .write channel timestamp address extraWordCount shortData =>
    rxWrite channel timestamp address extraWordCount shortData t
  | .bufferSpaceRequest => rxBufferSpaceRequest t
  | .readRequest channel timeout => rxReadRequest channel timeout t

end Sys2Proof.Machine
end

