-- ==== Sys2Proof/Machine/OutboundPackets.lean ====
section
/-! DEFINITION. Machine/OutboundPackets.lean: the rules of the four outbound packets
(43_reply_generation.md R172 to R176), each over the whole of its life: the `Idle` tick that chooses it
(R171) and the ticks that emit its words (44_packet_emitter.md R201, R202). -/

namespace Sys2Proof.Machine

/-- The `Idle` tick that chooses reply `q` and enters its state `S`: the contents are captured, the latch
of the reply is cleared, the link is idle (43_reply_generation.md R171; 44_packet_emitter.md R203). -/
def txChoose {c : Config} (q : OutPkt c) (S : TxState) (sig : TxSignals) (t : TxTick c) : TxResult c where
  regs := { state := S, emPkt := some q, emIdx := 0 }
  ports := .defaults t.dr
  sig := sig

/-- An `Idle` tick that chooses no reply (43_reply_generation.md R171, last branch). -/
def txIdle {c : Config} (t : TxTick c) : TxResult c where
  regs := { t.s with state := .idle, emIdx := 0 }
  ports := .defaults t.dr
  sig := .quiet

/-- The transmit ports of the tick that emits word `em_idx` of `q` (44_packet_emitter.md R201). -/
def emitPorts {c : Config} (q : OutPkt c) (idx : Nat) : TxPorts c where
  txFrameActive := true
  txData := wordAt c.ws q.bitString idx
  txLastWord := decide (idx + 1 = c.lenOut q.type)

/-- A tick that emits a word of `q`: after the last word the state is `Idle` again, before it the index
moves on (44_packet_emitter.md R201, R202; 43_reply_generation.md R178). No run reaches an `em_idx` that is
no word of the packet (10_state.md R43 I5); there R201 drives bits the packet does not have, which are a draw,
and R202 writes no register (log entry 6). -/
def txEmit {c : Config} (q : OutPkt c) (t : TxTick c) : TxResult c :=
  if t.s.emIdx + 1 = c.lenOut q.type then
    { regs := { t.s with state := .idle, emIdx := 0 }, ports := emitPorts q t.s.emIdx, sig := .quiet }
  else if t.s.emIdx + 1 < c.lenOut q.type then
    { regs := { t.s with emIdx := t.s.emIdx + 1 }, ports := emitPorts q t.s.emIdx, sig := .quiet }
  else { regs := t.s, ports := { emitPorts q t.s.emIdx with txData := t.dr.txData }, sig := .quiet }

/-- `EchoReply` (43_reply_generation.md R172): the reply side clears nothing. -/
def txEchoReply {c : Config} (t : TxTick c) : TxResult c :=
  match t.s.state with
  | .idle => txChoose .echoReply .echo .quiet t
  | .echo | .bufferSpaceReply | .readTimeout | .readOverflow | .read => txEmit .echoReply t

/-- `BufferSpaceReply` (43_reply_generation.md R173): its choice clears the latch. -/
def txBufferSpaceReply {c : Config} (space : BitVec Config.wSpace) (t : TxTick c)  : TxResult c :=
  match t.s.state with
  | .idle => txChoose (.bufferSpaceReply space) .bufferSpaceReply { bsClear := true, rrClear := false } t
  | .echo | .bufferSpaceReply | .readTimeout | .readOverflow | .read => txEmit (.bufferSpaceReply space) t

/-- The reply state of a `ReadReplyNoEvent` (43_reply_generation.md R174, R175). -/
def noEventState (overflow : BitVec Config.wOvf) : TxState :=
  if overflow = 1 then .readOverflow else .readTimeout

/-- `ReadReplyNoEvent` (43_reply_generation.md R174, R175): its choice clears `rr.pending`. -/
def txReadReplyNoEvent {c : Config} (overflow : BitVec Config.wOvf) (t : TxTick c)  : TxResult c :=
  match t.s.state with
  | .idle =>
    txChoose (.readReplyNoEvent overflow) (noEventState overflow) { bsClear := false, rrClear := true } t
  | .echo | .bufferSpaceReply | .readTimeout | .readOverflow | .read => txEmit (.readReplyNoEvent overflow) t

/-- `ReadReply` (43_reply_generation.md R176): its choice clears `rr.pending`. -/
def txReadReply {c : Config} (timestamp : BitVec Config.wRts) (data : BitVec c.wRdata) (t : TxTick c)  : TxResult c :=
  match t.s.state with
  | .idle => txChoose (.readReply timestamp data) .read { bsClear := false, rrClear := true } t
  | .echo | .bufferSpaceReply | .readTimeout | .readOverflow | .read => txEmit (.readReply timestamp data) t

/-- The rule of the tick's outbound packet (43_reply_generation.md R171, R178). -/
def txPacket {c : Config} (q : OutPkt c) (t : TxTick c) : TxResult c :=
  match q with
  | .echoReply => txEchoReply t
  | .bufferSpaceReply space => txBufferSpaceReply space t
  | .readReplyNoEvent overflow => txReadReplyNoEvent overflow t
  | .readReply timestamp data => txReadReply timestamp data t

end Sys2Proof.Machine
end

