-- ==== Sys2Proof/Machine/Tick.lean ====
section
/-! DEFINITION. Machine/Tick.lean: the two processes and their composition into one tick, at any
configuration (45_tick_and_flow_control.md R215, R216; 70_reset_and_hazards.md R260, R261). -/

namespace Sys2Proof.Machine

/-! ### The receive process -/

/-- The inbound packet the receive process works on in a tick: in `Idle` the one the assembler completes
(42_receive_dispatch.md R142), in a handling state the one in `pkt` (R143). `HandlingBufferSpaceRequest` reads
no field of `pkt` (R149). -/
def rxCurrent {c : Config} (s : RxRegs c) (inp : Inputs c) : Option (InPkt c) :=
  match s.state with
  | .idle => (assemble s inp).done
  | .handlingBufferSpaceRequest => some .bufferSpaceRequest
  | .handlingSetTime | .handlingReset | .handlingWrite | .handlingReadRequest => s.pkt

/-- A receive tick with no packet: `Idle` waits (42_receive_dispatch.md R141); a handling state has
nothing to read (10_state.md R43, last sentence). -/
def rxNoPacket {c : Config} (t : RxTick c) : Except Fault (RxResult c) :=
  match t.s.state with
  | .idle => .ok (t.base.goto .idle)
  | .handlingSetTime | .handlingReset | .handlingWrite | .handlingBufferSpaceRequest | .handlingReadRequest =>
    .error .emptyPkt

/-- The receive process in a tick (45_tick_and_flow_control.md R216, step 1): the assembler, then Receive
Dispatch on the packet of the tick. -/
def receive {c : Config} (s : RxRegs c) (inp : Inputs c) (dr : Draws c) : Except Fault (RxResult c) :=
  match rxCurrent s inp with
  | some p => .ok (rxPacket p { s := s, asm := assemble s inp, inp := inp, dr := dr })
  | none => rxNoPacket { s := s, asm := assemble s inp, inp := inp, dr := dr }

/-- The receive process in a tick in which its packet is `P`, by the rule `meaning` of `P`: in `Idle` the
tick completes `P` (40_packet_assembler.md R108). -/
def receiveAs {c : Config} (P : InPkt c) (meaning : RxTick c → RxResult c) (s : RxRegs c) (inp : Inputs c)
    (dr : Draws c) : RxResult c :=
  match s.state with
  | .idle => meaning { s := s, asm := asmComplete s inp.rxFrameActive P, inp := inp, dr := dr }
  | .handlingSetTime | .handlingReset | .handlingWrite | .handlingBufferSpaceRequest | .handlingReadRequest =>
    meaning { s := s, asm := assemble s inp, inp := inp, dr := dr }

/-! ### The reply process -/

/-- The outbound packet the reply process works on in a tick: in `Idle` the one chosen
(43_reply_generation.md R171), in a reply state the one in `em_pkt` (R178). -/
def txCurrent {c : Config} (s : TxRegs c) (flow : FlowRegs c) (inp : Inputs c) (dr : Draws c) :
    Option (OutPkt c) :=
  match s.state with
  | .idle => chooseReply flow inp dr
  | .echo | .bufferSpaceReply | .readTimeout | .readOverflow | .read => s.emPkt

/-- A reply tick with no packet: `Idle` waits (43_reply_generation.md R171); a reply state has nothing to
read (10_state.md R43, last sentence). -/
def txNoPacket {c : Config} (t : TxTick c) : Except Fault (TxResult c) :=
  match t.s.state with
  | .idle => .ok (txIdle t)
  | .echo | .bufferSpaceReply | .readTimeout | .readOverflow | .read => .error .emptyEmPkt

/-- The reply process in a tick (45_tick_and_flow_control.md R216, step 2). -/
def reply {c : Config} (s : TxRegs c) (flow : FlowRegs c) (inp : Inputs c) (dr : Draws c) :
    Except Fault (TxResult c) :=
  match txCurrent s flow inp dr with
  | some q => .ok (txPacket q { s := s, dr := dr })
  | none => txNoPacket { s := s, dr := dr }

/-! ### The composition -/

/-- Steps 3 and 4 of 45_tick_and_flow_control.md R216: the merged registers and the union of the outputs. -/
def merge {c : Config} (flow : FlowRegs c) (r : RxResult c) (t : TxResult c) : Engine c × Outputs c :=
  ({ rx := r.regs, tx := t.regs, flow := mergeFlow flow r.sig t.sig }, { rx := r.ports, tx := t.ports })

/-- A tick made of what the two processes yield; with `rst = 1` the reset step, and nothing else applies
(45_tick_and_flow_control.md R216; 70_reset_and_hazards.md R260, R261). -/
def tickWith {c : Config} (rst : Bool) (dr : Draws c) (flow : FlowRegs c) (r : Except Fault (RxResult c))
    (t : Except Fault (TxResult c)) : Except Fault (Engine c × Outputs c) :=
  if rst then .ok (.resetTick dr, .defaults dr)
  else
    match r with
    | .error f => .error f
    | .ok r =>
      match t with
      | .error f => .error f
      | .ok t => .ok (merge flow r t)

/-- `step(cfg, s, in, dr) -> (s', out)` of 45_tick_and_flow_control.md R215. -/
def engineTick (c : Config) (e : Engine c) (inp : Inputs c) (dr : Draws c) : Except Fault (Engine c × Outputs c) :=
  tickWith inp.rst dr e.flow (receive e.rx inp dr) (reply e.tx e.flow inp dr)

/-- The tick of a state of the default configuration, with its next inputs and its draws. -/
def State.plainTick (s : State) : Host.Outcome State Fault Refusal :=
  s.commit (engineTick Config.dflt s.eng s.nextInputs s.draws)

/-- The tick in which the receive process's packet is `P`, by the rule `meaning` of `P`. -/
def State.inboundTick (P : InPkt Config.dflt)
    (meaning : RxTick Config.dflt → RxResult Config.dflt) (s : State) :
    Host.Outcome State Fault Refusal :=
  s.commit (tickWith s.nextInputs.rst s.draws s.eng.flow
    (.ok (receiveAs P meaning s.eng.rx s.nextInputs s.draws))
    (reply s.eng.tx s.eng.flow s.nextInputs s.draws))

/-- The tick in which the reply process's packet is the one whose rule is `meaning`. -/
def State.outboundTick (meaning : TxTick Config.dflt → TxResult Config.dflt) (s : State) :
    Host.Outcome State Fault Refusal :=
  s.commit (tickWith s.nextInputs.rst s.draws s.eng.flow
    (receive s.eng.rx s.nextInputs s.draws)
    (.ok (meaning { s := s.eng.tx, dr := s.draws })))

/-- The instruction the next tick runs: the receive process's packet, else the reply process's. Where both
have one the tick runs both, and is the same tick by either. An `rst` tick runs none. -/
def State.current (s : State) : Option Instr :=
  if s.nextInputs.rst then none
  else
    match rxCurrent s.eng.rx s.nextInputs with
    | some p => some (Instr.ofIn p)
    | none =>
      match txCurrent s.eng.tx s.eng.flow s.nextInputs s.draws with
      | some q => some (Instr.ofOut q)
      | none => none

end Sys2Proof.Machine
end

