-- ==== Sys2Proof/Machine/InboundMeanings.lean ====
section
/-! DEFINITION. Machine/InboundMeanings.lean: the meaning of each inbound packet as an instruction: the
tick in which the receive process works on it (42_receive_dispatch.md R142, R143), with the reply process
going on beside it (R151; 45_tick_and_flow_control.md R216). -/

namespace Sys2Proof.Machine

/-- `EchoRequest` (42_receive_dispatch.md R145). -/
def execEchoRequest (s : State) : Host.Outcome State Fault Refusal :=
  s.inboundTick .echoRequest rxEchoRequest

/-- `SetTime` (42_receive_dispatch.md R146). -/
def execSetTime (timestamp : BitVec Config.wTs) (s : State) : Host.Outcome State Fault Refusal :=
  s.inboundTick (.setTime timestamp) (rxSetTime timestamp)

/-- `Reset` (42_receive_dispatch.md R147). -/
def execReset (phy : BitVec Config.wPhy) (s : State) : Host.Outcome State Fault Refusal :=
  s.inboundTick (.reset phy) (rxReset phy)

/-- `Write` (42_receive_dispatch.md R148; 41_write_accumulator.md R123 to R125). -/
def execWrite (channel : BitVec Config.dflt.wCh) (timestamp : BitVec Config.dflt.wWts)
    (address : BitVec Config.dflt.wAddr) (extraWordCount : BitVec Config.dflt.wExtra)
    (shortData : BitVec Config.dflt.wShort) (s : State) : Host.Outcome State Fault Refusal :=
  s.inboundTick (.write channel timestamp address extraWordCount shortData)
    (rxWrite channel timestamp address extraWordCount shortData)

/-- `BufferSpaceRequest` (42_receive_dispatch.md R149). -/
def execBufferSpaceRequest (s : State) : Host.Outcome State Fault Refusal :=
  s.inboundTick .bufferSpaceRequest rxBufferSpaceRequest

/-- `ReadRequest` (42_receive_dispatch.md R150). -/
def execReadRequest (channel : BitVec Config.dflt.wCh) (timeout : BitVec Config.dflt.wTimeout) (s : State) :
    Host.Outcome State Fault Refusal :=
  s.inboundTick (.readRequest channel timeout) (rxReadRequest channel timeout)

end Sys2Proof.Machine
end

