-- ==== Sys2Proof/Machine/OutboundMeanings.lean ====
section
/-! DEFINITION. Machine/OutboundMeanings.lean: the meaning of each outbound packet as an instruction: the
tick in which the reply process chooses it or emits a word of it (43_reply_generation.md R171, R178), with
the receive process going on beside it (45_tick_and_flow_control.md R216). -/

namespace Sys2Proof.Machine

/-- `EchoReply` (43_reply_generation.md R172). -/
def execEchoReply (s : State) : Host.Outcome State Fault Refusal :=
  s.outboundTick txEchoReply

/-- `BufferSpaceReply` (43_reply_generation.md R173). -/
def execBufferSpaceReply (space : BitVec Config.wSpace) (s : State) : Host.Outcome State Fault Refusal :=
  s.outboundTick (txBufferSpaceReply space)

/-- `ReadReplyNoEvent` (43_reply_generation.md R174, R175). -/
def execReadReplyNoEvent (overflow : BitVec Config.wOvf) (s : State) : Host.Outcome State Fault Refusal :=
  s.outboundTick (txReadReplyNoEvent overflow)

/-- `ReadReply` (43_reply_generation.md R176). -/
def execReadReply (timestamp : BitVec Config.wRts) (data : BitVec Config.dflt.wRdata) (s : State) :
    Host.Outcome State Fault Refusal :=
  s.outboundTick (txReadReply timestamp data)

end Sys2Proof.Machine
end

