-- ==== Sys2Proof/Machine/Dispatch.lean ====
section
/-! DEFINITION. Machine/Dispatch.lean: one arm per row of spec/opcode_table.json. -/

namespace Sys2Proof.Machine

def exec (i : Instr) (s : State) : Host.Outcome State Fault Refusal :=
  match i with
  | .echoRequest => Sys2Proof.Machine.execEchoRequest s
  | .setTime timestamp => Sys2Proof.Machine.execSetTime timestamp s
  | .reset phy => Sys2Proof.Machine.execReset phy s
  | .write channel timestamp address extraWordCount shortData => Sys2Proof.Machine.execWrite channel timestamp address extraWordCount shortData s
  | .bufferSpaceRequest => Sys2Proof.Machine.execBufferSpaceRequest s
  | .readRequest channel timeout => Sys2Proof.Machine.execReadRequest channel timeout s
  | .echoReply => Sys2Proof.Machine.execEchoReply s
  | .bufferSpaceReply space => Sys2Proof.Machine.execBufferSpaceReply space s
  | .readReplyNoEvent overflow => Sys2Proof.Machine.execReadReplyNoEvent overflow s
  | .readReply timestamp data => Sys2Proof.Machine.execReadReply timestamp data s

end Sys2Proof.Machine
end

