-- ==== Sys2Proof/Machine/Fetch.lean ====
section
/-! DEFINITION. Machine/Fetch.lean: the placing of a packet's words where the receive process takes its
next packet from: the assembler's buffer and the link (40_packet_assembler.md R103, R104, R106). -/

namespace Sys2Proof.Machine

/-- The input ports of a tick with word `d` of a frame on the link. -/
def Inputs.withLinkWord {c : Config} (inp : Inputs c) (d : Word c) : Inputs c :=
  { inp with rst := false, rxFrameActive := true, rxData := d }

/-- The receive process about to see the first word of a frame: `Idle`, no packet in progress, the frame
not yet active (40_packet_assembler.md R101). -/
def RxRegs.beforeFrame {c : Config} (s : RxRegs c) : RxRegs c :=
  { s with state := .idle, framePrev := false, asmBusy := false, asmIdx := 0 }

/-- The receive process after all words of a packet of type `T` but the last (40_packet_assembler.md R104,
R106). -/
def RxRegs.beforeLastWord {c : Config} (s : RxRegs c) (T : InType) (words : List (Word c)) : RxRegs c :=
  { s with
    state := .idle, framePrev := true, asmBusy := true, asmType := T, asmIdx := c.lenIn T - 1
    asmBuf := Vector.ofFn fun i => if i.val < c.lenIn T - 1 then words.getD i.val 0 else s.asmBuf[i] }

/-- `s` at the tick in which the packet at the front of `words` completes: its last word stands on the
link, the words before it in the assembler's buffer. Words that begin no packet stand on the link as the
first word of a frame. -/
def State.placeWords (s : State) (words : List (Word Config.dflt)) : State :=
  let first := words.headD 0
  match typeOfCodeIn Config.dflt (headerCode Config.dflt first) with
  | none =>
    { s with
      eng := { s.eng with rx := s.eng.rx.beforeFrame }
      inputs := s.nextInputs.withLinkWord first :: s.inputs.tail }
  | some T =>
    if Config.dflt.lenIn T = 1 then
      { s with
        eng := { s.eng with rx := s.eng.rx.beforeFrame }
        inputs := s.nextInputs.withLinkWord first :: s.inputs.tail }
    else
      { s with
        eng := { s.eng with rx := s.eng.rx.beforeLastWord T words }
        inputs := s.nextInputs.withLinkWord (words.getD (Config.dflt.lenIn T - 1) 0) :: s.inputs.tail }

end Sys2Proof.Machine
end

