-- ==== Sys2Proof/Machine/Step.lean ====
section
/-! DEFINITION. Machine/Step.lean: one step, which is one clock tick (45_tick_and_flow_control.md R215). -/

namespace Sys2Proof.Machine

/-- One tick: the tick of the packet a process works on, or a tick with no packet in either (an `rst`
tick, an `Idle` wait, or a word that completes no packet). -/
def step (s : State) : Host.Outcome State Fault Refusal :=
  match s.current with
  | some i => exec i s
  | none => s.plainTick

/-- `s` with the instruction whose bits are `w` placed so that the next step completes and runs it (log
entry 9). -/
def State.withFetchWord (s : State) (nbits w : Nat) : State :=
  s.placeWords (tableWords nbits w)

end Sys2Proof.Machine
end

