-- ==== Sys2Proof/Safety.lean ====
section
/-! DEFINITION. Safety.lean: the terms claims about the engine are stated in: the invariants of every
reachable state (10_state.md R43), quiescence, runs, traces and settled runs (70_reset_and_hazards.md
R266), the frames a run is fed with (30_encoding.md R85) and the premises of 70_reset_and_hazards.md R274. -/

namespace Sys2Proof.Machine

/-! ### Invariants (10_state.md R43) -/

/-- The inbound type a handling state handles (R43 I4). -/
def RxState.handles : RxState → Option InType
  | .idle => none
  | .handlingSetTime => some .setTime
  | .handlingReset => some .reset
  | .handlingWrite => some .write
  | .handlingBufferSpaceRequest => some .bufferSpaceRequest
  | .handlingReadRequest => some .readRequest

/-- The reply a reply state sends (R43 I5). -/
def TxState.sends {c : Config} : TxState → OutPkt c → Prop
  | .idle, _ => False
  | .echo, q => q = .echoReply
  | .bufferSpaceReply, q => ∃ space, q = .bufferSpaceReply space
  | .readTimeout, q => q = .readReplyNoEvent 0
  | .readOverflow, q => q = .readReplyNoEvent 1
  | .read, q => ∃ timestamp data, q = .readReply timestamp data

/-- The receive process's part of R43: I1, I2, I3, I4 and I7. -/
structure RxRegs.Inv {c : Config} (s : RxRegs c) : Prop where
  /-- I1. -/
  collecting : s.asmBusy = true →
    s.state = .idle ∧ s.framePrev = true ∧ 1 ≤ s.asmIdx ∧ s.asmIdx < c.lenIn s.asmType
  /-- I2. -/
  clear : s.state ≠ .handlingWrite → s.accCnt = 0 ∧ s.accWords = Vector.replicate c.nmax 0
  /-- I3. -/
  accumulating : ∀ channel timestamp address extraWordCount shortData,
    s.state = .handlingWrite → s.pkt = some (.write channel timestamp address extraWordCount shortData) →
    s.accCnt ≤ extraWordCount ∧ ∀ (j : Nat) (hj : j < c.nmax), s.accCnt.toNat ≤ j → s.accWords[j] = 0
  /-- I4. -/
  handling : ∀ T, s.state.handles = some T → ∃ p, s.pkt = some p ∧ p.type = T
  /-- I7: with `frame_prev = 1` no tick is a rising edge. -/
  noEdge : s.state ≠ .idle → s.framePrev = true ∧ s.asmBusy = false

/-- The reply process's part of R43: I5 and I6. -/
structure TxRegs.Inv {c : Config} (s : TxRegs c) : Prop where
  /-- I5. -/
  emitting : s.state ≠ .idle → ∃ q, s.emPkt = some q ∧ s.state.sends q ∧ s.emIdx < c.lenOut q.type
  /-- I6. -/
  waiting : s.state = .idle → s.emIdx = 0

/-- The invariants of every reachable state (10_state.md R43). -/
structure Engine.Inv {c : Config} (e : Engine c) : Prop where
  rx : e.rx.Inv
  tx : e.tx.Inv

/-! ### Runs (70_reset_and_hazards.md R264, R266) -/

/-- A quiescent state (R266). -/
def Engine.quiescent {c : Config} (e : Engine c) : Bool :=
  decide (e.rx.state = .idle) && !e.rx.asmBusy && decide (e.tx.state = .idle)
  && !e.flow.echoReq && !e.flow.bsReq && !e.flow.rr.pending

/-- `started_from_reset` (R264, R274): the state after a tick with `rst = 1`. -/
def Engine.StartedFromReset {c : Config} (e : Engine c) : Prop :=
  ∃ asmType asmBuf, e = .resetWith asmType asmBuf

/-- A run: the end state and the trace of a finite input sequence with its draws (R266). -/
def Engine.run {c : Config} (e : Engine c) :
    List (Inputs c × Draws c) → Except Fault (Engine c × List (Outputs c))
  | [] => .ok (e, [])
  | (inp, dr) :: rest =>
    match engineTick c e inp dr with
    | .error f => .error f
    | .ok (e', out) =>
      match Engine.run e' rest with
      | .error f => .error f
      | .ok (e'', trace) => .ok (e'', out :: trace)

/-- A settled run (R266): its end state is quiescent and its last tick has the frame inactive. -/
def settled {c : Config} (ticks : List (Inputs c × Draws c)) (endState : Engine c) : Bool :=
  endState.quiescent && ticks.getLast?.any fun x => !x.1.rxFrameActive

/-- The receive link carries this frame, one word a tick from the first tick on, and is inactive in the
tick after it (30_encoding.md R71, R77, R85). -/
def carriesFrame {c : Config} (words : List (Word c)) (ticks : List (Inputs c × Draws c)) : Prop :=
  ticks.map (fun x => (x.1.rst, x.1.rxFrameActive, if x.1.rxFrameActive then x.1.rxData else 0))
    = words.map (fun w => (false, true, w)) ++ [(false, false, 0)]

/-! ### Premises (20_memory.md R58; 70_reset_and_hazards.md R274)

E1 (`io_no_comb_path`) needs no predicate: the inputs of a tick stand in the state before the tick, so they
cannot depend on its outputs. E4 (`io_flags_ignored_while_pending`) is a fact about the engine, and leaves the
flags of a pending tick free in E2. -/

/-- The tick submits a read. -/
def Outputs.submitsRead {c : Config} (out : Outputs c) : Bool := decide (out.rx.ioCmd = .read)

/-- Tick `m` follows a read submitted at tick `n`, with no read submitted between: at `m` the status and the
result are those of that read (20_memory.md R58: of the most recently submitted read). -/
def FollowsRead {c : Config} (outs : List (Outputs c)) (n m : Nat) : Prop :=
  n < m ∧ (∃ out, outs[n]? = some out ∧ out.submitsRead = true) ∧
    ∀ (k : Nat) (out : Outputs c), n < k → k < m → outs[k]? = some out → out.submitsRead = false

/-- The outcome flags the status inputs show. -/
def Inputs.outcomeFlags {c : Config} (inp : Inputs c) : Bool × Bool :=
  (inp.ioStatusTimedOut, inp.ioStatusOverflowed)

/-- E2, `io_read_pending_next`: each read submitted at a tick `n` resolves at some tick after `n + 1`, or never.
Up to the next read `io_status_pending` is 1 before that tick and 0 from it on, with the outcome flags of that
read. So it is 1 at `n + 1`, and once 0 it stays 0 with the same flags. -/
def ReadPendingNext {c : Config} (inputs : List (Inputs c)) (outs : List (Outputs c)) : Prop :=
  ∀ n, ∃ (resolvedAt : Option Nat) (flags : Bool × Bool), (∀ r, resolvedAt = some r → n + 1 < r) ∧
    ∀ (m : Nat) (inp : Inputs c), FollowsRead outs n m → inputs[m]? = some inp →
      (inp.ioStatusPending = false ↔ ∃ r, resolvedAt = some r ∧ r ≤ m) ∧
      (inp.ioStatusPending = false → inp.outcomeFlags = flags)

/-- E3, `io_result_valid`: each read has one result, which the result inputs hold in every later tick that
shows it resolved with neither error flag, up to the next read. -/
def ResultValid {c : Config} (inputs : List (Inputs c)) (outs : List (Outputs c)) : Prop :=
  ∀ n, ∃ result : BitVec Config.wRts × BitVec c.wRdata, ∀ (m : Nat) (inp : Inputs c),
    FollowsRead outs n m → inputs[m]? = some inp →
    inp.ioStatusPending = false → inp.ioStatusTimedOut = false → inp.ioStatusOverflowed = false →
    (inp.ioResultTimestamp, inp.ioResultData) = result

/-- `no_rst_during_run` (R274; optional): no tick of the run has `rst = 1`. -/
def NoRstDuringRun {c : Config} (inputs : List (Inputs c)) : Prop := ∀ inp ∈ inputs, inp.rst = false

/-- The premises of R274 on the run of `ticks` from `e`, but for the optional `NoRstDuringRun`: what a claim
about the engine with its I/O core rests on. -/
structure Engine.RunPremises {c : Config} (e : Engine c) (ticks : List (Inputs c × Draws c)) : Prop where
  /-- `started_from_reset`. -/
  startedFromReset : e.StartedFromReset
  /-- `io_read_pending_next`, E2. -/
  ioReadPendingNext : ∀ e' outs, e.run ticks = .ok (e', outs) → ReadPendingNext (ticks.map (·.1)) outs
  /-- `io_result_valid`, E3. -/
  ioResultValid : ∀ e' outs, e.run ticks = .ok (e', outs) → ResultValid (ticks.map (·.1)) outs

end Sys2Proof.Machine
end

