-- ==== Sys2Proof/Certificates/Slice0/Obligations.lean ====
section
/-! DEFINITION. Certificates/Slice0/Obligations.lean: the statements for the provers. Each is about every
state or every tick that meets its premises; `s.eng.tx.Inv` and `s.eng.rx.Inv` are the parts of
10_state.md R43 that keep the other process out of the states no run reaches. -/

namespace Sys2Proof.Machine.Claims

/-- The shared registers after a tick in which the receive process asserts no signal: the reply side may
clear its latches, the echo pulse ends (45_tick_and_flow_control.md R218 to R221). -/
def flowQuiet {c : Config} (f : FlowRegs c) (t : TxSignals) : FlowRegs c where
  bufferSpace := f.bufferSpace
  bsReq := f.bsReq && !t.bsClear
  rr := { f.rr with pending := f.rr.pending && !t.rrClear }
  echoReq := false

/-- The shared registers after a tick with signals of both processes, as 45_tick_and_flow_control.md R218
to R221 give them: a set and a load win over every clear. -/
def flowAfter {c : Config} (f : FlowRegs c) (r : RxSignals c) (bsClear rrClear : Bool) : FlowRegs c where
  bufferSpace := r.bsUpdate.getD f.bufferSpace
  bsReq := r.bsSet || (f.bsReq && !bsClear && !r.softReset)
  rr :=
    match r.rrLoad with
    | some x => { channel := x.1, timeout := x.2, pending := true }
    | none =>
      if r.softReset then { channel := 0, timeout := 0, pending := false }
      else { f.rr with pending := f.rr.pending && !rrClear }
  echoReq := r.echoSet

/-- The whole next state of a tick whose receive side is given and whose reply side yields `r`. -/
def afterInbound (s : State) (rx : RxRegs Config.dflt) (flow : FlowRegs Config.dflt)
    (ports : RxPorts Config.dflt) (r : TxResult Config.dflt) : State where
  eng := { rx := rx, tx := r.regs, flow := flow }
  inputs := s.inputs.tail
  out := { rx := ports, tx := r.ports }
  tick := s.tick + 1

/-- The whole next state of a tick whose reply side is given and whose receive side yields `r`. -/
def afterOutbound (s : State) (r : RxResult Config.dflt) (flow : FlowRegs Config.dflt)
    (tx : TxRegs Config.dflt) (ports : TxPorts Config.dflt) : State where
  eng := { rx := r.regs, tx := tx, flow := flow }
  inputs := s.inputs.tail
  out := { rx := r.ports, tx := ports }
  tick := s.tick + 1

/-- What the reply process yields in the next tick of `s`. -/
def replyOf (s : State) : Except Fault (TxResult Config.dflt) :=
  reply s.eng.tx s.eng.flow s.nextInputs s.draws

/-- What the receive process yields in the next tick of `s`. -/
def receiveOf (s : State) : Except Fault (RxResult Config.dflt) :=
  receive s.eng.rx s.nextInputs s.draws

/-- The state Receive Dispatch enters when a packet of the type completes (42_receive_dispatch.md R140). -/
def entered : InType → RxState
  | .echoRequest => .idle
  | .setTime => .handlingSetTime
  | .reset => .handlingReset
  | .write => .handlingWrite
  | .bufferSpaceRequest => .handlingBufferSpaceRequest
  | .readRequest => .handlingReadRequest

/-- The state Reply Generation enters with a reply (43_reply_generation.md R171). -/
def replyState {c : Config} : OutPkt c → TxState
  | .echoReply => .echo
  | .bufferSpaceReply _ => .bufferSpaceReply
  | .readReplyNoEvent overflow => if overflow = 0 then .readTimeout else .readOverflow
  | .readReply _ _ => .read

/-- The choice of this reply clears the buffer-space-request latch (43_reply_generation.md R173). -/
def clearsBs {c : Config} : OutPkt c → Bool
  | .bufferSpaceReply _ => true
  | .echoReply | .readReplyNoEvent _ | .readReply _ _ => false

/-- The choice of this reply clears `rr.pending` (43_reply_generation.md R174 to R176). -/
def clearsRr {c : Config} : OutPkt c → Bool
  | .readReplyNoEvent _ | .readReply _ _ => true
  | .echoReply | .bufferSpaceReply _ => false

/-- The reply process chooses a read outcome in this tick (43_reply_generation.md R171). -/
def choosesRead {c : Config} (e : Engine c) (inp : Inputs c) : Bool :=
  decide (e.tx.state = .idle) && !e.flow.echoReq && !e.flow.bsReq && e.flow.rr.pending && !inp.ioStatusPending

/-- The tick handles a full Reset packet (42_receive_dispatch.md R147, `phy = 0`). -/
def handlesFullReset {c : Config} (e : Engine c) : Bool :=
  decide (e.rx.state = .handlingReset ∧ e.rx.pkt = some (.reset 0))

/-- The ports of a tick assert no command, no pulse and no condition. -/
def noReceiveOutput {c : Config} (p : RxPorts c) : Prop :=
  p.ioCmd = .none ∧ p.tscLoad = false ∧ p.resetOut = false ∧ p.resetPhyOut = false ∧
    p.unknownPacketType = false ∧ p.packetTruncated = false

/-- The ticks carry these words on an active frame, with `rst = 0`. -/
def carries {c : Config} (words : List (Word c)) (ticks : List (Inputs c × Draws c)) : Prop :=
  ticks.map (fun x => (x.1.rst, x.1.rxFrameActive, x.1.rxData)) = words.map fun w => (false, true, w)

/-- How many commands, pulses and conditions the ports assert (42_receive_dispatch.md R152; 60_exceptions.md R245). -/
def receiveOutputs {c : Config} (p : RxPorts c) : Nat :=
  (if p.ioCmd = .none then 0 else 1) + p.tscLoad.toNat + p.resetOut.toNat + p.resetPhyOut.toNat
    + p.unknownPacketType.toNat + p.packetTruncated.toNat

/-- The word a tick sends with its last-word mark, if it sends one (20_memory.md R51). -/
def sent {c : Config} (o : Outputs c) : Option (Word c × Bool) :=
  if o.tx.txFrameActive then some (o.tx.txData, o.tx.txLastWord) else none

/-- What the ticks that emit a reply send (44_packet_emitter.md R201). -/
def frameOf {c : Config} (q : OutPkt c) : List (Option (Word c × Bool)) :=
  (encodeOut q).mapIdx fun i w => some (w, decide (i + 1 = c.lenOut q.type))

end Sys2Proof.Machine.Claims

open Sys2Proof Sys2Proof.Machine Sys2Proof.Machine.Claims

/-! ### The encoding (30_encoding.md) -/

/-- 30_encoding.md R84 for the inbound packets, at every configuration that meets 00_scope.md R9: decoding the
words of a packet gives it back and leaves the words after it. -/
def Obligations.InboundPacketsRoundTrip : Prop :=
  ∀ (c : Config) (p : InPkt c) (rest : List (Word c)), c.wellFormed = true →
    decodeInWords c (encodeIn p ++ rest) = .ok (p, rest)

/-- 30_encoding.md R84 for the outbound packets, at every configuration that meets 00_scope.md R9. -/
def Obligations.OutboundPacketsRoundTrip : Prop :=
  ∀ (c : Config) (q : OutPkt c) (rest : List (Word c)), c.wellFormed = true →
    decodeOutWords c (encodeOut q ++ rest) = .ok (q, rest)

/-- 30_encoding.md R84 for every row of the opcode table at the default configuration. -/
def Obligations.EveryInstructionRoundTrips : Prop :=
  ∀ (i : Instr) (rest : List (Word Config.dflt)), decode i.direction (encode i ++ rest) = .ok (i, rest)

/-- Words written out from 30_encoding.md R79 and 95_test_vectors.md V-N1 decode to the packets they stand
for. -/
def Obligations.VectorWordsDecode : Prop :=
  decode .inbound [0x00000000] = .ok (.echoRequest, []) ∧
  decode .inbound [0x66778801, 0x22334455, 0x00000011] = .ok (.setTime 0x1122334455667788, []) ∧
  decode .inbound [0x00000102] = .ok (.reset 1, []) ∧
  decode .inbound [0x00000103, 0x0000000A, 0x00000000, 0xAB020000, 0x11111111, 0x22222222]
    = .ok (.write 1 10 0 2 0xAB, [0x11111111, 0x22222222]) ∧
  decode .inbound [0x00000004] = .ok (.bufferSpaceRequest, []) ∧
  decode .inbound [0x00000305, 0x00000064, 0x00000000] = .ok (.readRequest 3 100, []) ∧
  decode .outbound [0x00000000] = .ok (.echoReply, []) ∧
  decode .outbound [0x00002A01] = .ok (.bufferSpaceReply 42, []) ∧
  decode .outbound [0x00000102] = .ok (.readReplyNoEvent 1, []) ∧
  decode .outbound [0x0001F403, 0x00000000, 0x00ABCD00, 0x00000000] = .ok (.readReply 500 0xABCD, [])

/-- 30_encoding.md R78: a packet decodes the same whatever its padding bits hold. -/
def Obligations.ReceivedPaddingIsIgnored : Prop :=
  ∀ (c : Config) (T : InType) (words words' : List (Word c)),
    joinWords words % 2 ^ c.bitsIn T = joinWords words' % 2 ^ c.bitsIn T →
    decodeIn c T words = decodeIn c T words'

/-- 30_encoding.md R71 and R78: a packet goes out as `L(T)` words, its first word holds its code in the
header bits, and every bit above its fields is 0. -/
def Obligations.EmittedPacketHasItsLengthCodeAndZeroPadding : Prop :=
  ∀ (c : Config) (q : OutPkt c), c.wellFormed = true →
    (encodeOut q).length = c.lenOut q.type ∧
    joinWords (encodeOut q) % 2 ^ c.h = c.codeOut q.type ∧
    joinWords (encodeOut q) < 2 ^ c.bitsOut q.type

/-- 30_encoding.md R81: a header code names the inbound type whose `TC_IN` code it is, and no type where it
is no code, at every configuration that meets 00_scope.md R9. -/
def Obligations.HeaderCodeNamesItsTypeOrNone : Prop :=
  ∀ (c : Config), c.wellFormed = true →
    (∀ T, typeOfCodeIn c (c.codeIn T) = some T) ∧
    (∀ T, typeOfCodeOut c (c.codeOut T) = some T) ∧
    ∀ code, typeOfCodeIn c code = none ↔ ∀ T, c.codeIn T ≠ code

/-- 30_encoding.md R81 at the defaults: the unrecognised codes are `0x06` to `0xFF`. -/
def Obligations.UnrecognisedCodesAtTheDefaults : Prop :=
  ∀ d : Word Config.dflt,
    typeOfCodeIn Config.dflt (headerCode Config.dflt d) = none ↔ 6 ≤ d.toNat % 256

/-! ### The Packet Assembler (40_packet_assembler.md) -/

/-- 40_packet_assembler.md R104: the first word of a multi-word packet of a known type is kept and fixes the
type, with no condition and no packet exposed; no later tick of the packet changes the type. -/
def Obligations.FirstWordStartsAMultiWordPacket : Prop :=
  (∀ (c : Config) (e : Engine c) (inp : Inputs c) (dr : Draws c) (T : InType),
    inp.rst = false → e.tx.Inv → e.rx.asmBusy = false → inp.rxFrameActive = true →
    e.rx.framePrev = false → e.rx.state = .idle →
    typeOfCodeIn c (headerCode c inp.rxData) = some T → 1 < c.lenIn T →
    ∃ e' out, engineTick c e inp dr = .ok (e', out) ∧
      e'.rx = { e.rx with
        framePrev := true, asmBusy := true, asmType := T
        asmBuf := e.rx.asmBuf.setIfInBounds 0 inp.rxData, asmIdx := 1 } ∧
      out.rx = RxPorts.defaults dr) ∧
  ∀ (c : Config) (e e' : Engine c) (inp : Inputs c) (dr : Draws c) (out : Outputs c),
    inp.rst = false → e.rx.asmBusy = true → engineTick c e inp dr = .ok (e', out) →
    e'.rx.asmType = e.rx.asmType

/-- 40_packet_assembler.md R103: a one-word packet completes in the tick of its word, and Receive Dispatch
enters its state (R108; 42_receive_dispatch.md R142). -/
def Obligations.OneWordPacketCompletesAtOnce : Prop :=
  ∀ (c : Config) (e : Engine c) (inp : Inputs c) (dr : Draws c) (T : InType),
    inp.rst = false → e.tx.Inv → e.rx.asmBusy = false → inp.rxFrameActive = true →
    e.rx.framePrev = false → e.rx.state = .idle →
    typeOfCodeIn c (headerCode c inp.rxData) = some T → c.lenIn T = 1 →
    ∃ e' out, engineTick c e inp dr = .ok (e', out) ∧
      e'.rx = { e.rx with
        framePrev := true, state := entered T, pkt := some (decodeIn c T [inp.rxData]) } ∧
      out.rx = RxPorts.defaults dr

/-- 40_packet_assembler.md R106: a further word of a packet in progress is kept, or is its last word and
completes it. -/
def Obligations.FurtherWordIsStoredOrCompletes : Prop :=
  ∀ (c : Config) (e : Engine c) (inp : Inputs c) (dr : Draws c),
    inp.rst = false → e.Inv → e.rx.asmBusy = true → inp.rxFrameActive = true →
    ∃ e' out, engineTick c e inp dr = .ok (e', out) ∧
      e'.rx =
        (if e.rx.asmIdx + 1 = c.lenIn e.rx.asmType then
          { e.rx with
            framePrev := true, asmBusy := false, asmIdx := 0, state := entered e.rx.asmType
            pkt := some (decodeIn c e.rx.asmType (e.rx.asmBuf.toList.take e.rx.asmIdx ++ [inp.rxData])) }
        else
          { e.rx with
            framePrev := true, asmBuf := e.rx.asmBuf.setIfInBounds e.rx.asmIdx inp.rxData
            asmIdx := e.rx.asmIdx + 1 }) ∧
      out.rx = RxPorts.defaults dr

/-- 40_packet_assembler.md R105: an unknown header code raises UnknownPacketType in the tick of its word, and
no register of the receive process but `frame_prev` changes (60_exceptions.md R241). -/
def Obligations.UnknownCodeRaisesAndDiscards : Prop :=
  ∀ (c : Config) (e : Engine c) (inp : Inputs c) (dr : Draws c),
    inp.rst = false → e.tx.Inv → e.rx.asmBusy = false → inp.rxFrameActive = true →
    e.rx.framePrev = false → e.rx.state = .idle →
    typeOfCodeIn c (headerCode c inp.rxData) = none →
    ∃ e' out, engineTick c e inp dr = .ok (e', out) ∧
      e'.rx = { e.rx with framePrev := true } ∧
      out.rx = { RxPorts.defaults dr with unknownPacketType := true }

/-- 40_packet_assembler.md R107: a frame that ends inside a packet raises PacketTruncated in that tick, and
the packet in progress is abandoned. -/
def Obligations.FrameDropTruncatesThePacket : Prop :=
  ∀ (c : Config) (e : Engine c) (inp : Inputs c) (dr : Draws c),
    inp.rst = false → e.Inv → e.rx.asmBusy = true → inp.rxFrameActive = false →
    ∃ e' out, engineTick c e inp dr = .ok (e', out) ∧
      e'.rx = { e.rx with framePrev := false, asmBusy := false, asmIdx := 0 } ∧
      out.rx = { RxPorts.defaults dr with packetTruncated := true }

/-- 40_packet_assembler.md R102 in `Idle`, and R111: with no packet in progress and no rising edge the word
is ignored, and only `frame_prev` changes in the receive process. -/
def Obligations.WordWithoutARisingEdgeIsIgnored : Prop :=
  ∀ (c : Config) (e : Engine c) (inp : Inputs c) (dr : Draws c),
    inp.rst = false → e.tx.Inv → e.rx.asmBusy = false → e.rx.state = .idle →
    (inp.rxFrameActive = false ∨ e.rx.framePrev = true) →
    ∃ e' out, engineTick c e inp dr = .ok (e', out) ∧
      e'.rx = { e.rx with framePrev := inp.rxFrameActive } ∧
      out.rx = RxPorts.defaults dr

/-- 40_packet_assembler.md R112 and 60_exceptions.md R244: after any tick with the frame inactive no packet
is in progress. -/
def Obligations.InactiveFrameResynchronises : Prop :=
  ∀ (c : Config) (e e' : Engine c) (inp : Inputs c) (dr : Draws c) (out : Outputs c),
    inp.rxFrameActive = false → engineTick c e inp dr = .ok (e', out) → e'.rx.asmBusy = false

/-- 40_packet_assembler.md R113 with 30_encoding.md R84: from the start of a frame, the words of a packet on
consecutive ticks put that packet into `pkt` and Receive Dispatch into its state, and no tick of it asserts
a command, a pulse or a condition. -/
def Obligations.FrameIsAssembledIntoItsPacket : Prop :=
  ∀ (c : Config) (p : InPkt c) (e : Engine c) (ticks : List (Inputs c × Draws c)),
    c.wellFormed = true → e.Inv → e.rx.state = .idle → e.rx.asmBusy = false → e.rx.framePrev = false →
    carries (encodeIn p) ticks →
    ∃ e' outs, e.run ticks = .ok (e', outs) ∧
      e'.rx.pkt = some p ∧ e'.rx.state = entered p.type ∧ e'.rx.asmBusy = false ∧
      e'.flow.echoReq = decide (p.type = .echoRequest) ∧
      ∀ o ∈ outs, noReceiveOutput o.rx

/-! ### The inbound packets (42_receive_dispatch.md, 41_write_accumulator.md) -/

/-- 42_receive_dispatch.md R145: the tick in which an EchoRequest completes sets the echo handshake and
stays in `Idle`. The whole next state. -/
def Obligations.EchoRequestSetsTheHandshake : Prop :=
  ∀ s : State, s.nextInputs.rst = false → s.eng.tx.Inv → s.eng.rx.state = .idle →
    ∃ r, replyOf s = .ok r ∧
      exec .echoRequest s = .next (afterInbound s
        { s.eng.rx with
          framePrev := s.nextInputs.rxFrameActive, asmBusy := false
          asmIdx := if s.eng.rx.asmBusy then 0 else s.eng.rx.asmIdx, pkt := some .echoRequest }
        { flowQuiet s.eng.flow r.sig with echoReq := true }
        (.defaults s.draws) r)

/-- 42_receive_dispatch.md R140 and R142, for SetTime, Reset, Write, BufferSpaceRequest and ReadRequest: the
tick in which the packet completes enters its handling state and does nothing else of it. The whole next
state. -/
def Obligations.CompletedPacketEntersItsHandlingState : Prop :=
  ∀ (s : State) (p : InPkt Config.dflt), p.type ≠ .echoRequest →
    s.nextInputs.rst = false → s.eng.tx.Inv → s.eng.rx.state = .idle →
    ∃ r, replyOf s = .ok r ∧
      exec (Instr.ofIn p) s = .next (afterInbound s
        { s.eng.rx with
          framePrev := s.nextInputs.rxFrameActive, asmBusy := false
          asmIdx := if s.eng.rx.asmBusy then 0 else s.eng.rx.asmIdx
          pkt := some p, state := entered p.type }
        (flowQuiet s.eng.flow r.sig) (.defaults s.draws) r)

/-- 42_receive_dispatch.md R146 and R143: the `HandlingSetTime` tick pulses the Timestamp-Counter load with
the packet's value and returns to `Idle`. The whole next state. -/
def Obligations.SetTimeLoadsTheTimestampCounter : Prop :=
  ∀ (s : State) (timestamp : BitVec 64), s.nextInputs.rst = false → s.eng.tx.Inv →
    s.eng.rx.state = .handlingSetTime → s.eng.rx.asmBusy = false →
    ∃ r, replyOf s = .ok r ∧
      exec (.setTime timestamp) s = .next (afterInbound s
        { s.eng.rx with framePrev := s.nextInputs.rxFrameActive, state := .idle }
        (flowQuiet s.eng.flow r.sig)
        { RxPorts.defaults s.draws with tscLoad := true, tscValue := timestamp } r)

/-- 42_receive_dispatch.md R147, `phy = 1`, and 70_reset_and_hazards.md R263: only `reset_phy_out` is pulsed.
The whole next state. -/
def Obligations.PhyResetOnlyPulses : Prop :=
  ∀ s : State, s.nextInputs.rst = false → s.eng.tx.Inv →
    s.eng.rx.state = .handlingReset → s.eng.rx.asmBusy = false →
    ∃ r, replyOf s = .ok r ∧
      exec (.reset 1) s = .next (afterInbound s
        { s.eng.rx with framePrev := s.nextInputs.rxFrameActive, state := .idle }
        (flowQuiet s.eng.flow r.sig)
        { RxPorts.defaults s.draws with resetPhyOut := true } r)

/-- 42_receive_dispatch.md R147, `phy = 0`, and 70_reset_and_hazards.md R263: `reset_out` is pulsed, the
buffer-space latch and the read slot are cleared, `buffer_space` and the reply process are left alone. The
whole next state. The internal clear is the spec's own reading (D12; log entry 8). -/
def Obligations.FullResetPulsesAndClearsTheLatches : Prop :=
  ∀ s : State, s.nextInputs.rst = false → s.eng.tx.Inv →
    s.eng.rx.state = .handlingReset → s.eng.rx.asmBusy = false →
    ∃ r, replyOf s = .ok r ∧
      exec (.reset 0) s = .next (afterInbound s
        { s.eng.rx with framePrev := s.nextInputs.rxFrameActive, state := .idle }
        { bufferSpace := s.eng.flow.bufferSpace, bsReq := false
          rr := { channel := 0, timeout := 0, pending := false }, echoReq := false }
        { RxPorts.defaults s.draws with resetOut := true } r)

/-- 41_write_accumulator.md R123: below the declared count, the word of an active frame is taken into the
accumulator. The whole next state. -/
def Obligations.WriteConsumesAPayloadWord : Prop :=
  ∀ (s : State) (channel : BitVec 24) (timestamp : BitVec 64) (address : BitVec 16) (k : BitVec 8)
    (shortData : BitVec 8), s.nextInputs.rst = false → s.eng.tx.Inv →
    s.eng.rx.state = .handlingWrite → s.eng.rx.asmBusy = false →
    s.eng.rx.accCnt < k → s.nextInputs.rxFrameActive = true →
    ∃ r, replyOf s = .ok r ∧
      exec (.write channel timestamp address k shortData) s = .next (afterInbound s
        { s.eng.rx with
          framePrev := true
          accWords := s.eng.rx.accWords.setIfInBounds s.eng.rx.accCnt.toNat s.nextInputs.rxData
          accCnt := s.eng.rx.accCnt + 1 }
        (flowQuiet s.eng.flow r.sig) (.defaults s.draws) r)

/-- 41_write_accumulator.md R124: below the declared count, a frame that drops raises PacketTruncated, clears
the accumulator and issues nothing. The whole next state. -/
def Obligations.WriteTruncatesWithoutACommand : Prop :=
  ∀ (s : State) (channel : BitVec 24) (timestamp : BitVec 64) (address : BitVec 16) (k : BitVec 8)
    (shortData : BitVec 8), s.nextInputs.rst = false → s.eng.tx.Inv →
    s.eng.rx.state = .handlingWrite → s.eng.rx.asmBusy = false →
    s.eng.rx.accCnt < k → s.nextInputs.rxFrameActive = false →
    ∃ r, replyOf s = .ok r ∧
      exec (.write channel timestamp address k shortData) s = .next (afterInbound s
        { s.eng.rx with framePrev := false, state := .idle, accCnt := 0, accWords := Vector.replicate _ 0 }
        (flowQuiet s.eng.flow r.sig)
        { RxPorts.defaults s.draws with packetTruncated := true } r)

/-- 41_write_accumulator.md R125 with R121 and R122: at the declared count the write is submitted, whatever
the frame does, and the accumulator is cleared. The whole next state. -/
def Obligations.WriteSubmitsAtTheDeclaredCount : Prop :=
  ∀ (s : State) (channel : BitVec 24) (timestamp : BitVec 64) (address : BitVec 16) (k : BitVec 8)
    (shortData : BitVec 8), s.nextInputs.rst = false → s.eng.tx.Inv →
    s.eng.rx.state = .handlingWrite → s.eng.rx.asmBusy = false → s.eng.rx.accCnt = k →
    ∃ r, replyOf s = .ok r ∧
      exec (.write channel timestamp address k shortData) s = .next (afterInbound s
        { s.eng.rx with
          framePrev := s.nextInputs.rxFrameActive, state := .idle
          accCnt := 0, accWords := Vector.replicate _ 0 }
        (flowQuiet s.eng.flow r.sig)
        { RxPorts.defaults s.draws with
          ioCmd := .write, ioChannel := channel, ioTimestamp := timestamp, ioAddress := address
          ioData := accData shortData s.eng.rx.accWords } r)

/-- 41_write_accumulator.md R122: the bits of `AccData`, at every configuration: `short_data` lowest, payload
word `j` above the words before it; with an empty accumulator, R127, it is `short_data` zero-extended. -/
def Obligations.AccDataPlacesShortDataAndWords : Prop :=
  ∀ (c : Config) (shortData : BitVec c.wShort) (accWords : Vector (Word c) c.nmax),
    fieldAt c.wShort 0 (accData shortData accWords).toNat = shortData ∧
    (∀ (j : Nat) (hj : j < c.nmax),
      fieldAt c.ws (c.wShort + j * c.ws) (accData shortData accWords).toNat = accWords[j]) ∧
    accData shortData (Vector.replicate c.nmax 0) = shortData.setWidth c.wWdata

/-- 41_write_accumulator.md R126 and R128: from a clear accumulator, `k` payload words on consecutive active
ticks and one tick more give exactly one write command, in the last tick, with `short_data` and the words
in order; no tick raises a condition. -/
def Obligations.WriteWithAllItsWordsIsIssuedOnce : Prop :=
  ∀ (c : Config) (e : Engine c) (channel : BitVec c.wCh) (timestamp : BitVec c.wWts) (address : BitVec c.wAddr)
    (k : BitVec c.wExtra) (shortData : BitVec c.wShort) (payload : List (Word c))
    (ticks : List (Inputs c × Draws c)) (inp : Inputs c) (dr : Draws c),
    c.wellFormed = true → e.Inv → e.rx.state = .handlingWrite →
    e.rx.pkt = some (.write channel timestamp address k shortData) → e.rx.accCnt = 0 →
    payload.length = k.toNat → carries payload ticks → inp.rst = false →
    ∃ (e' : Engine c) (outs : List (Outputs c)) (out : Outputs c),
      e.run (ticks ++ [(inp, dr)]) = .ok (e', outs ++ [out]) ∧
      outs.length = ticks.length ∧ (∀ o ∈ outs, noReceiveOutput o.rx) ∧
      out.rx = { RxPorts.defaults dr with
        ioCmd := .write, ioChannel := channel, ioTimestamp := timestamp.setWidth c.wIoTs, ioAddress := address
        ioData := BitVec.ofNat _ (cat (⟨_, shortData⟩ :: payload.map fun w => ⟨_, w⟩)) } ∧
      e'.rx.state = .idle ∧ e'.rx.accCnt = 0 ∧ e'.rx.accWords = Vector.replicate _ 0

/-- 41_write_accumulator.md R126 and R128: from a clear accumulator, a frame that drops after fewer words than
declared raises PacketTruncated in the tick of the drop and never issues a command. -/
def Obligations.WriteWithFewerWordsIsNeverIssued : Prop :=
  ∀ (c : Config) (e : Engine c) (channel : BitVec c.wCh) (timestamp : BitVec c.wWts) (address : BitVec c.wAddr)
    (k : BitVec c.wExtra) (shortData : BitVec c.wShort) (payload : List (Word c))
    (ticks : List (Inputs c × Draws c)) (inp : Inputs c) (dr : Draws c),
    c.wellFormed = true → e.Inv → e.rx.state = .handlingWrite →
    e.rx.pkt = some (.write channel timestamp address k shortData) → e.rx.accCnt = 0 →
    payload.length < k.toNat → carries payload ticks → inp.rst = false → inp.rxFrameActive = false →
    ∃ (e' : Engine c) (outs : List (Outputs c)) (out : Outputs c),
      e.run (ticks ++ [(inp, dr)]) = .ok (e', outs ++ [out]) ∧
      outs.length = ticks.length ∧ (∀ o ∈ outs, noReceiveOutput o.rx) ∧
      out.rx = { RxPorts.defaults dr with packetTruncated := true } ∧
      e'.rx.state = .idle ∧ e'.rx.accCnt = 0 ∧ e'.rx.accWords = Vector.replicate _ 0

/-- 42_receive_dispatch.md R149 and R143: the `HandlingBufferSpaceRequest` tick sets the latch, whatever the
reply side clears, and takes the snapshot. The whole next state. That the set wins is the spec's own choice
(D10; log entry 8). -/
def Obligations.BufferSpaceRequestSetsAndSnapshots : Prop :=
  ∀ s : State, s.nextInputs.rst = false → s.eng.tx.Inv →
    s.eng.rx.state = .handlingBufferSpaceRequest → s.eng.rx.asmBusy = false →
    ∃ r, replyOf s = .ok r ∧
      exec .bufferSpaceRequest s = .next (afterInbound s
        { s.eng.rx with framePrev := s.nextInputs.rxFrameActive, state := .idle }
        { flowQuiet s.eng.flow r.sig with bsReq := true, bufferSpace := s.nextInputs.ioBufferSpace }
        (.defaults s.draws) r)

/-- 42_receive_dispatch.md R150 and R143: the `HandlingReadRequest` tick overwrites the read slot, whatever the
reply side clears, and submits a read whose timestamp is the timeout; address and data of the command stay
draws. The whole next state. That the load wins, and what the command carries, are the spec's own choices
(D10, D16; log entry 8). -/
def Obligations.ReadRequestLoadsTheSlotAndSubmits : Prop :=
  ∀ (s : State) (channel : BitVec 24) (timeout : BitVec 64), s.nextInputs.rst = false → s.eng.tx.Inv →
    s.eng.rx.state = .handlingReadRequest → s.eng.rx.asmBusy = false →
    ∃ r, replyOf s = .ok r ∧
      exec (.readRequest channel timeout) s = .next (afterInbound s
        { s.eng.rx with framePrev := s.nextInputs.rxFrameActive, state := .idle }
        { flowQuiet s.eng.flow r.sig with rr := { channel := channel, timeout := timeout, pending := true } }
        { RxPorts.defaults s.draws with ioCmd := .read, ioChannel := channel, ioTimestamp := timeout } r)

/-- 42_receive_dispatch.md R143: each non-Write handling state lasts exactly one tick, whatever the inputs. -/
def Obligations.NonWriteHandlingLastsOneTick : Prop :=
  ∀ (c : Config) (e : Engine c) (inp : Inputs c) (dr : Draws c), inp.rst = false → e.Inv →
    e.rx.state ≠ .idle → e.rx.state ≠ .handlingWrite →
    ∃ e' out, engineTick c e inp dr = .ok (e', out) ∧
      e'.rx = { e.rx with framePrev := inp.rxFrameActive, state := .idle }

/-- 42_receive_dispatch.md R151: two engines with the same receive registers take the same receive step and
drive the same receive ports, whatever their reply processes and shared registers. -/
def Obligations.ReceiveNeverReadsTheReplyProcess : Prop :=
  ∀ (c : Config) (e₁ e₂ e₁' e₂' : Engine c) (inp : Inputs c) (dr : Draws c) (o₁ o₂ : Outputs c),
    e₁.rx = e₂.rx → engineTick c e₁ inp dr = .ok (e₁', o₁) → engineTick c e₂ inp dr = .ok (e₂', o₂) →
    e₁'.rx = e₂'.rx ∧ o₁.rx = o₂.rx

/-- 42_receive_dispatch.md R152 and 60_exceptions.md R245: in a reachable state a tick asserts at most one of
the commands, pulses and conditions. -/
def Obligations.AtMostOneReceiveOutputPerTick : Prop :=
  ∀ (c : Config) (e e' : Engine c) (inp : Inputs c) (dr : Draws c) (out : Outputs c),
    e.Inv → engineTick c e inp dr = .ok (e', out) → receiveOutputs out.rx ≤ 1

/-! ### The outbound packets (43_reply_generation.md, 44_packet_emitter.md) -/

/-- 43_reply_generation.md R171 to R176, for EchoReply, BufferSpaceReply, ReadReplyNoEvent and ReadReply: the
`Idle` tick that takes up a reply captures it, enters its state, clears its latch unless the receive side
sets it in the tick, and leaves the link idle. The whole next state. -/
def Obligations.ChosenReplyIsCaptured : Prop :=
  ∀ (s : State) (q : OutPkt Config.dflt), s.nextInputs.rst = false → s.eng.rx.Inv →
    s.eng.tx.state = .idle →
    ∃ r, receiveOf s = .ok r ∧
      exec (Instr.ofOut q) s = .next (afterOutbound s r
        (flowAfter s.eng.flow r.sig (clearsBs q) (clearsRr q))
        { state := replyState q, emPkt := some q, emIdx := 0 }
        (.defaults s.draws))

/-- 44_packet_emitter.md R201 and R202, for EchoReply, BufferSpaceReply, ReadReplyNoEvent and ReadReply: a tick
of a reply state drives the word `em_idx` of the packet, marks the last word, and moves on or returns to
`Idle`; it clears no latch (43_reply_generation.md R178). The whole next state. -/
def Obligations.ReplyStateEmitsOneWord : Prop :=
  ∀ (s : State) (q : OutPkt Config.dflt), s.nextInputs.rst = false → s.eng.rx.Inv →
    s.eng.tx.state ≠ .idle → s.eng.tx.emIdx < Config.dflt.lenOut q.type →
    ∃ r, receiveOf s = .ok r ∧
      exec (Instr.ofOut q) s = .next (afterOutbound s r
        (flowAfter s.eng.flow r.sig false false)
        (if s.eng.tx.emIdx + 1 = Config.dflt.lenOut q.type then { s.eng.tx with state := .idle, emIdx := 0 }
          else { s.eng.tx with emIdx := s.eng.tx.emIdx + 1 })
        { txFrameActive := true, txData := (encodeOut q).getD s.eng.tx.emIdx 0
          txLastWord := decide (s.eng.tx.emIdx + 1 = Config.dflt.lenOut q.type) })

/-- 43_reply_generation.md R170 and R171: the priority of the `Idle` tick: echo, then buffer space, then a
resolved read; with none of them the reply process waits. -/
def Obligations.IdleTickChoosesByPriority : Prop :=
  ∀ (c : Config) (e : Engine c) (inp : Inputs c) (dr : Draws c), inp.rst = false → e.rx.Inv →
    e.tx.state = .idle →
    ∃ e' out, engineTick c e inp dr = .ok (e', out) ∧ out.tx = TxPorts.defaults dr ∧
      (e.flow.echoReq = true → e'.tx = { state := .echo, emPkt := some .echoReply, emIdx := 0 }) ∧
      (e.flow.echoReq = false → e.flow.bsReq = true →
        e'.tx = { state := .bufferSpaceReply, emPkt := some (.bufferSpaceReply e.flow.bufferSpace), emIdx := 0 }) ∧
      (e.flow.echoReq = false → e.flow.bsReq = false → e.flow.rr.pending = true → inp.ioStatusPending = false →
        e'.tx.state = .readTimeout ∨ e'.tx.state = .readOverflow ∨ e'.tx.state = .read) ∧
      (e.flow.echoReq = false → e.flow.bsReq = false →
        (e.flow.rr.pending = false ∨ inp.ioStatusPending = true) →
        e'.tx = { e.tx with state := .idle, emIdx := 0 })

/-- 43_reply_generation.md R171 and R174 to R177: the reply that a resolved read gets; with both error flags
it is the timeout or the overflow reply, by the draw and by nothing else. -/
def Obligations.ResolvedReadGetsItsOutcomeReply : Prop :=
  ∀ (c : Config) (e : Engine c) (inp : Inputs c) (dr : Draws c), inp.rst = false → e.rx.Inv →
    choosesRead e inp = true →
    ∃ e' out, engineTick c e inp dr = .ok (e', out) ∧
      e'.tx =
        (if inp.ioStatusTimedOut = true ∧ (inp.ioStatusOverflowed = false ∨ dr.choosesTimeout = true) then
          { state := .readTimeout, emPkt := some (.readReplyNoEvent 0), emIdx := 0 }
        else if inp.ioStatusOverflowed = true then
          { state := .readOverflow, emPkt := some (.readReplyNoEvent 1), emIdx := 0 }
        else
          { state := .read, emPkt := some (.readReply inp.ioResultTimestamp inp.ioResultData), emIdx := 0 })

/-- 44_packet_emitter.md R201, R202, R205 and R206: a reply once captured goes out whole, one word a tick in
order, `tx_last_word` on the last word alone, and the reply process is `Idle` again after it. -/
def Obligations.ReplyIsSentWholeAndInOrder : Prop :=
  ∀ (c : Config) (e : Engine c) (q : OutPkt c) (ticks : List (Inputs c × Draws c)),
    c.wellFormed = true → e.Inv → e.tx.state ≠ .idle → e.tx.emPkt = some q → e.tx.emIdx = 0 →
    (∀ x ∈ ticks, x.1.rst = false) → ticks.length = c.lenOut q.type →
    ∃ e' outs, e.run ticks = .ok (e', outs) ∧ e'.tx = { e.tx with state := .idle } ∧
      outs.map (fun o => (o.tx.txFrameActive, o.tx.txData, o.tx.txLastWord)) =
        (encodeOut q).mapIdx fun i w => (true, w, decide (i + 1 = c.lenOut q.type))

/-- 43_reply_generation.md R183 and 44_packet_emitter.md R205: after the last word of a reply comes a tick with
the transmit frame inactive. -/
def Obligations.RepliesAreSeparatedByAGap : Prop :=
  ∀ (c : Config) (e e' e'' : Engine c) (inp inp' : Inputs c) (dr dr' : Draws c) (out out' : Outputs c),
    engineTick c e inp dr = .ok (e', out) → engineTick c e' inp' dr' = .ok (e'', out') →
    out.tx.txLastWord = true → out.tx.txFrameActive = true ∧ out'.tx.txFrameActive = false

/-- 43_reply_generation.md R181: with an echo request, a buffer-space request and a read pending at `Idle` and
nothing new arriving, EchoReply goes first and BufferSpaceReply second, and a read reply is third where the
status is then resolved. -/
def Obligations.PriorityOrderOfThreePendingReplies : Prop :=
  ∀ (c : Config) (e : Engine c) (t₁ t₂ t₃ : Inputs c × Draws c) (emit₁ emit₂ : List (Inputs c × Draws c)),
    c.wellFormed = true → e.Inv → e.rx.state = .idle → e.rx.asmBusy = false → e.tx.state = .idle →
    e.flow.echoReq = true → e.flow.bsReq = true → e.flow.rr.pending = true →
    emit₁.length = c.lenOut .echoReply → emit₂.length = c.lenOut .bufferSpaceReply →
    (∀ x ∈ t₁ :: emit₁ ++ t₂ :: emit₂ ++ [t₃], x.1.rst = false ∧ x.1.rxFrameActive = false) →
    t₃.1.ioStatusPending = false →
    ∃ e₁ o₁ e₂ o₂ e₃ o₃,
      e.run [t₁] = .ok (e₁, o₁) ∧ e₁.tx = { state := .echo, emPkt := some .echoReply, emIdx := 0 } ∧
      e₁.run (emit₁ ++ [t₂]) = .ok (e₂, o₂) ∧
      e₂.tx = { state := .bufferSpaceReply, emPkt := some (.bufferSpaceReply e.flow.bufferSpace), emIdx := 0 } ∧
      e₂.run (emit₂ ++ [t₃]) = .ok (e₃, o₃) ∧
      e₃.tx.emPkt = some (readReply t₃.1 t₃.2) ∧ e₃.tx.state ≠ .idle

/-- 43_reply_generation.md R178, R179 and 44_packet_emitter.md R204: in a reply state no reply is chosen and the
reply side clears no latch, so an echo request pending then is dropped: `em_pkt` keeps its packet, the state
is kept or is `Idle`, and only a new EchoRequest packet leaves `echo_req` at 1. -/
def Obligations.NoReplyIsChosenDuringEmission : Prop :=
  ∀ (c : Config) (e e' : Engine c) (inp : Inputs c) (dr : Draws c) (out : Outputs c), inp.rst = false →
    e.tx.state ≠ .idle → engineTick c e inp dr = .ok (e', out) →
    e'.tx.emPkt = e.tx.emPkt ∧ (e'.tx.state = e.tx.state ∨ e'.tx.state = .idle) ∧
    (rxCurrent e.rx inp ≠ some .echoRequest → e'.flow.echoReq = false) ∧
    (handlesFullReset e = false → e.flow.bsReq = true → e'.flow.bsReq = true) ∧
    (handlesFullReset e = false → e.flow.rr.pending = true → e'.flow.rr.pending = true)

/-- 43_reply_generation.md R184 and 70_reset_and_hazards.md R276: from a quiescent state, an EchoRequest word in
tick `t` and no frame after it is answered by the words of EchoReply from tick `t + 2` on, whatever the
padding of the request holds, and the engine is quiescent again after them. -/
def Obligations.EchoRequestIsAnswered : Prop :=
  ∀ (c : Config) (e : Engine c) (t₀ t₁ : Inputs c × Draws c) (emit : List (Inputs c × Draws c)),
    c.wellFormed = true → e.Inv → e.quiescent = true → e.rx.framePrev = false →
    t₀.1.rst = false → t₀.1.rxFrameActive = true → headerCode c t₀.1.rxData = c.codeIn .echoRequest →
    (∀ x ∈ t₁ :: emit, x.1.rst = false ∧ x.1.rxFrameActive = false) → emit.length = c.lenOut .echoReply →
    ∃ e' outs, e.run (t₀ :: t₁ :: emit) = .ok (e', outs) ∧ e'.quiescent = true ∧
      outs.map sent = none :: none :: frameOf .echoReply

/-- 43_reply_generation.md R184 and 70_reset_and_hazards.md R276: from a quiescent state, a one-word
BufferSpaceRequest in tick `t` and no frame after it is answered from tick `t + 3` on by the words of a
BufferSpaceReply with the buffer space sampled in tick `t + 1`, and the engine is quiescent again after them. -/
def Obligations.BufferSpaceRequestIsAnswered : Prop :=
  ∀ (c : Config) (e : Engine c) (t₀ t₁ t₂ : Inputs c × Draws c) (emit : List (Inputs c × Draws c)),
    c.wellFormed = true → e.Inv → e.quiescent = true → e.rx.framePrev = false →
    t₀.1.rst = false → t₀.1.rxFrameActive = true →
    headerCode c t₀.1.rxData = c.codeIn .bufferSpaceRequest →
    (∀ x ∈ t₁ :: t₂ :: emit, x.1.rst = false ∧ x.1.rxFrameActive = false) →
    emit.length = c.lenOut .bufferSpaceReply →
    ∃ e' outs, e.run (t₀ :: t₁ :: t₂ :: emit) = .ok (e', outs) ∧ e'.quiescent = true ∧
      outs.map sent = none :: none :: none :: frameOf (.bufferSpaceReply t₁.1.ioBufferSpace)

/-! ### The shared registers (45_tick_and_flow_control.md) -/

/-- 45_tick_and_flow_control.md R219: `buffer_space` takes the sampled value in a `HandlingBufferSpaceRequest`
tick, in which `bs_req` is set too, and keeps its value in every other tick without `rst`. -/
def Obligations.BufferSpaceChangesOnlyBySnapshot : Prop :=
  ∀ (c : Config) (e e' : Engine c) (inp : Inputs c) (dr : Draws c) (out : Outputs c),
    inp.rst = false → engineTick c e inp dr = .ok (e', out) →
    e'.flow.bufferSpace =
        (if e.rx.state = .handlingBufferSpaceRequest then inp.ioBufferSpace else e.flow.bufferSpace) ∧
    (e.flow.bsReq = false → e'.flow.bsReq = true → e'.flow.bufferSpace = inp.ioBufferSpace)

/-- 45_tick_and_flow_control.md R218: the buffer-space-request latch over every tick without `rst`. -/
def Obligations.BufferSpaceLatchUpdate : Prop :=
  ∀ (c : Config) (e e' : Engine c) (inp : Inputs c) (dr : Draws c) (out : Outputs c),
    inp.rst = false → engineTick c e inp dr = .ok (e', out) →
    e'.flow.bsReq =
      (decide (e.rx.state = .handlingBufferSpaceRequest) ||
        (e.flow.bsReq && !(decide (e.tx.state = .idle) && !e.flow.echoReq) && !handlesFullReset e))

/-- 45_tick_and_flow_control.md R220: the read slot over every tick without `rst`. -/
def Obligations.ReadSlotUpdate : Prop :=
  ∀ (c : Config) (e e' : Engine c) (inp : Inputs c) (dr : Draws c) (out : Outputs c),
    inp.rst = false → engineTick c e inp dr = .ok (e', out) →
    (∀ channel timeout, e.rx.state = .handlingReadRequest → e.rx.pkt = some (.readRequest channel timeout) →
      e'.flow.rr = { channel := channel, timeout := timeout, pending := true }) ∧
    (e.rx.state ≠ .handlingReadRequest → handlesFullReset e = true →
      e'.flow.rr = { channel := 0, timeout := 0, pending := false }) ∧
    (e.rx.state ≠ .handlingReadRequest → handlesFullReset e = false →
      e'.flow.rr = { e.flow.rr with pending := e.flow.rr.pending && !choosesRead e inp })

/-- 45_tick_and_flow_control.md R221: `echo_req` is 1 after a tick exactly if the tick decoded an EchoRequest in
`Idle`, so the pulse lasts one tick. -/
def Obligations.EchoPulseLastsOneTick : Prop :=
  ∀ (c : Config) (e e' : Engine c) (inp : Inputs c) (dr : Draws c) (out : Outputs c),
    inp.rst = false → engineTick c e inp dr = .ok (e', out) →
    (e'.flow.echoReq = true ↔ e.rx.state = .idle ∧ rxCurrent e.rx inp = some .echoRequest)

/-- 45_tick_and_flow_control.md R226: the next state depends on the draws only through the choice of
43_reply_generation.md R177, used only when both error flags are 1; the outputs depend on them only in the
lines no rule drives and in the address and data of a read command. The premise of the last clause, 10_state.md
R43 I5, rules out an `em_idx` that is no word of `em_pkt` (log entry 6). -/
def Obligations.DrawsReachOnlyUndrivenLines : Prop :=
  ∀ (c : Config) (e e₁ e₂ : Engine c) (inp : Inputs c) (dr₁ dr₂ : Draws c) (o₁ o₂ : Outputs c),
    inp.rst = false →
    (inp.ioStatusTimedOut = true → inp.ioStatusOverflowed = true → dr₁.choosesTimeout = dr₂.choosesTimeout) →
    engineTick c e inp dr₁ = .ok (e₁, o₁) → engineTick c e inp dr₂ = .ok (e₂, o₂) →
    e₁ = e₂ ∧
    o₁.rx.ioCmd = o₂.rx.ioCmd ∧ o₁.rx.tscLoad = o₂.rx.tscLoad ∧ o₁.rx.resetOut = o₂.rx.resetOut ∧
    o₁.rx.resetPhyOut = o₂.rx.resetPhyOut ∧ o₁.rx.unknownPacketType = o₂.rx.unknownPacketType ∧
    o₁.rx.packetTruncated = o₂.rx.packetTruncated ∧
    o₁.tx.txFrameActive = o₂.tx.txFrameActive ∧ o₁.tx.txLastWord = o₂.tx.txLastWord ∧
    (o₁.rx.ioCmd ≠ .none → o₁.rx.ioChannel = o₂.rx.ioChannel ∧ o₁.rx.ioTimestamp = o₂.rx.ioTimestamp) ∧
    (o₁.rx.ioCmd = .write → o₁.rx.ioAddress = o₂.rx.ioAddress ∧ o₁.rx.ioData = o₂.rx.ioData) ∧
    (o₁.rx.tscLoad = true → o₁.rx.tscValue = o₂.rx.tscValue) ∧
    (e.tx.Inv → o₁.tx.txFrameActive = true → o₁.tx.txData = o₂.tx.txData)

/-- 10_state.md R39 and 20_memory.md R58 (E4): an input outside the ticks that sample it changes nothing: the
link word of an inactive frame, the buffer space outside its handling state, the read status and result
where no read outcome can be chosen, and the flags and the result while the status is pending. -/
def Obligations.UnsampledInputsAreIgnored : Prop :=
  ∀ (c : Config) (e : Engine c) (inp : Inputs c) (dr : Draws c),
    (∀ d, inp.rxFrameActive = false → engineTick c e { inp with rxData := d } dr = engineTick c e inp dr) ∧
    (∀ n, e.rx.state ≠ .handlingBufferSpaceRequest →
      engineTick c e { inp with ioBufferSpace := n } dr = engineTick c e inp dr) ∧
    (∀ p tmo ovf ts x, (e.tx.state ≠ .idle ∨ e.flow.echoReq = true ∨ e.flow.bsReq = true ∨ e.flow.rr.pending = false) →
      engineTick c e { inp with
        ioStatusPending := p, ioStatusTimedOut := tmo, ioStatusOverflowed := ovf
        ioResultTimestamp := ts, ioResultData := x } dr = engineTick c e inp dr) ∧
    (∀ tmo ovf ts x, inp.ioStatusPending = true →
      engineTick c e { inp with
        ioStatusTimedOut := tmo, ioStatusOverflowed := ovf, ioResultTimestamp := ts, ioResultData := x } dr
        = engineTick c e inp dr) ∧
    (∀ ts x, (inp.ioStatusTimedOut = true ∨ inp.ioStatusOverflowed = true) →
      engineTick c e { inp with ioResultTimestamp := ts, ioResultData := x } dr = engineTick c e inp dr)

/-! ### The whole machine (10_state.md R43; 60_exceptions.md; 70_reset_and_hazards.md) -/

/-- 45_tick_and_flow_control.md R227, 60_exceptions.md R244 and 10_state.md R43: at every configuration that
meets 00_scope.md R9, every tick of a state with the invariants has a successor, and the successor has them. -/
def Obligations.EveryTickHasASuccessorWithTheInvariants : Prop :=
  ∀ (c : Config) (e : Engine c) (inp : Inputs c) (dr : Draws c), c.wellFormed = true → e.Inv →
    ∃ e' out, engineTick c e inp dr = .ok (e', out) ∧ e'.Inv

/-- 10_state.md R43 over the host's step: from every state with the invariants a step answers a next state,
and every next state has them. -/
def Obligations.StepKeepsTheInvariants : Prop :=
  ∀ s : State, s.eng.Inv → ∃ t, step s = .next t ∧ t.eng.Inv

/-- 10_state.md R43: the invariants hold at reset, at every configuration and for every value of the two
registers R45 leaves unspecified. -/
def Obligations.InvariantsHoldAtReset : Prop :=
  State.reset.eng.Inv ∧
    ∀ (c : Config) (asmType : InType) (asmBuf : Vector (Word c) c.lmaxIn),
      (Engine.resetWith asmType asmBuf : Engine c).Inv

/-- 10_state.md R45: the reset value of every register that has one. The values but the two `Idle` are the
spec's own choice (D13, D14; log entry 8). -/
def Obligations.ResetValues : Prop :=
  State.reset.eng.rx.state = .idle ∧ State.reset.eng.tx.state = .idle ∧
  State.reset.eng.rx.framePrev = false ∧ State.reset.eng.rx.asmBusy = false ∧ State.reset.eng.rx.asmIdx = 0 ∧
  State.reset.eng.rx.pkt = none ∧ State.reset.eng.rx.accCnt = 0 ∧
  (∀ (j : Nat) (hj : j < Config.dflt.nmax), State.reset.eng.rx.accWords[j] = 0) ∧
  State.reset.eng.flow.bufferSpace = 0 ∧ State.reset.eng.flow.bsReq = false ∧
  State.reset.eng.flow.rr.channel = 0 ∧ State.reset.eng.flow.rr.timeout = 0 ∧
  State.reset.eng.flow.rr.pending = false ∧ State.reset.eng.flow.echoReq = false ∧
  State.reset.eng.tx.emPkt = none ∧ State.reset.eng.tx.emIdx = 0

/-- 70_reset_and_hazards.md R260 and R261: a tick with `rst = 1` puts every register to its reset value and
every output to its default, from every state; the two unspecified registers hold draws. The port and the
values are the spec's own choice (D13; log entry 8). -/
def Obligations.RstTickResetsEverything : Prop :=
  ∀ s : State, s.nextInputs.rst = true →
    step s = .next
      { eng :=
          { rx :=
              { state := .idle, framePrev := false, asmBusy := false, asmType := s.draws.asmType, asmIdx := 0
                asmBuf := s.draws.asmBuf, pkt := none, accCnt := 0, accWords := Vector.replicate _ 0 }
            tx := { state := .idle, emPkt := none, emIdx := 0 }
            flow :=
              { bufferSpace := 0, bsReq := false, rr := { channel := 0, timeout := 0, pending := false }
                echoReq := false } }
        inputs := s.inputs.tail
        out := { rx := .defaults s.draws, tx := .defaults s.draws }
        tick := s.tick + 1 }

/-- 70_reset_and_hazards.md R266: a quiescent state in a tick with the frame inactive stays quiescent, drives
every output to its default and changes no register but `frame_prev`. -/
def Obligations.QuiescentStateStaysQuiescent : Prop :=
  ∀ (c : Config) (e : Engine c) (inp : Inputs c) (dr : Draws c), inp.rst = false → e.Inv →
    e.quiescent = true → inp.rxFrameActive = false →
    ∃ e' out, engineTick c e inp dr = .ok (e', out) ∧ e'.quiescent = true ∧
      e' = { e with rx := { e.rx with framePrev := false } } ∧ out = Outputs.defaults dr

/-- 60_exceptions.md R242, R244 and R246: after a tick that raises a condition the receive process is in `Idle`
with no packet in progress and a clear accumulator (41_write_accumulator.md R121), no command, pulse or
handshake came with it, and the flow-control registers are what the reply side's own clears leave of them. -/
def Obligations.ConditionLeavesTheReceiveProcessReady : Prop :=
  ∀ (c : Config) (e e' : Engine c) (inp : Inputs c) (dr : Draws c) (out : Outputs c), e.Inv →
    engineTick c e inp dr = .ok (e', out) →
    (out.rx.unknownPacketType = true ∨ out.rx.packetTruncated = true) →
    e'.rx.state = .idle ∧ e'.rx.asmBusy = false ∧ e'.rx.accCnt = 0 ∧ e'.rx.accWords = Vector.replicate _ 0 ∧
    e'.rx.pkt = e.rx.pkt ∧
    out.rx.ioCmd = .none ∧ out.rx.tscLoad = false ∧ out.rx.resetOut = false ∧ out.rx.resetPhyOut = false ∧
    ∃ t, reply e.tx e.flow inp dr = .ok t ∧ e'.flow = flowQuiet e.flow t.sig

/-! ### The step and the decoded packet -/

/-- A step runs the packet a process works on: where the tick has a current instruction, the step is `exec` of
it (42_receive_dispatch.md R142, R143; 43_reply_generation.md R171, R178). -/
def Obligations.StepRunsTheCurrentInstruction : Prop :=
  ∀ (s : State) (i : Instr), s.current = some i → step s = exec i s

/-- 45_tick_and_flow_control.md R215 and R216: whichever packets the tick runs, the step is the engine's one
tick on the state, its next inputs and its draws; the inputs are used up and the tick number moves on. -/
def Obligations.StepIsTheEngineTick : Prop :=
  ∀ s : State, step s =
    match engineTick Config.dflt s.eng s.nextInputs s.draws with
    | .ok (e, out) => .next { eng := e, inputs := s.inputs.tail, out := out, tick := s.tick + 1 }
    | .error f => .fault f

/-- 45_tick_and_flow_control.md R216: where both processes have a packet, the one tick runs both: it is the
tick of the inbound packet and the tick of the outbound packet. -/
def Obligations.OneTickRunsBothProcesses : Prop :=
  ∀ (s : State) (p : InPkt Config.dflt) (q : OutPkt Config.dflt), s.nextInputs.rst = false →
    rxCurrent s.eng.rx s.nextInputs = some p →
    txCurrent s.eng.tx s.eng.flow s.nextInputs s.draws = some q →
    step s = exec (Instr.ofIn p) s ∧ step s = exec (Instr.ofOut q) s

/-- 40_packet_assembler.md R106 and R108 with 30_encoding.md R80: where the words collected and the word on the
link decode to one whole packet, that packet is the tick's current instruction. -/
def Obligations.CollectedWordsAreFetched : Prop :=
  ∀ (s : State) (p : InPkt Config.dflt), s.nextInputs.rst = false → s.eng.rx.state = .idle →
    s.eng.rx.asmBusy = true → s.nextInputs.rxFrameActive = true → s.eng.rx.asmType = p.type →
    s.eng.rx.asmIdx + 1 = Config.dflt.lenIn p.type →
    decodeInWords Config.dflt (s.eng.rx.asmBuf.toList.take s.eng.rx.asmIdx ++ [s.nextInputs.rxData])
      = .ok (p, []) →
    s.current = some (Instr.ofIn p)

/-- The model's choice, no rule of the spec (log entry 9, DESIGN CHOICE: `withFetchWord` stands for the load of a
program from outside; log entry 10, DEDUCED: `decodeTableWord` reads its word as the receiver): from every state,
the instruction that `decodeTableWord` reads from a word is the current instruction of the state `withFetchWord`
places it in, so the next step runs it. Of the spec only the decoding (30_encoding.md R80) and the exposing of a
completed packet (40_packet_assembler.md R108) enter. -/
def Obligations.PlacedWordRunsNext : Prop :=
  ∀ (s : State) (nbits w : Nat) (i : Instr), decodeTableWord nbits w = some i →
    (s.withFetchWord nbits w).current = some i
end

