-- ==== Sys2Proof/Laws/Encoding.lean ====
section
/-! SUPPORT. Laws/Encoding.lean: the arithmetic of bit strings (00_scope.md R11, R12; 30_encoding.md R71):
what `cat`, `fieldAt`, `joinWords` and `splitWords` do to each other. -/

namespace Sys2Proof

/-- The width of a concatenation (R12). -/
def catWidth (fs : List ((w : Nat) × BitVec w)) : Nat := (fs.map fun f => f.1).sum

@[simp] theorem catWidth_nil : catWidth [] = 0 := rfl
@[simp] theorem catWidth_cons (f : (w : Nat) × BitVec w) (fs : List ((w : Nat) × BitVec w)) :
    catWidth (f :: fs) = f.1 + catWidth fs := by simp [catWidth]

/-- A concatenation fits its width. -/
theorem cat_lt (fs : List ((w : Nat) × BitVec w)) : cat fs < 2 ^ catWidth fs := by
  induction fs with
  | nil => simp [cat]
  | cons f fs ih =>
    obtain ⟨w, v⟩ := f
    have hv := v.isLt
    simp only [cat, catWidth_cons, pow_add]
    calc v.toNat + 2 ^ w * cat fs < 2 ^ w + 2 ^ w * cat fs := by omega
      _ = 2 ^ w * (cat fs + 1) := by ring
      _ ≤ 2 ^ w * 2 ^ catWidth fs := Nat.mul_le_mul_left _ ih

/-- What lies above the first parts of a concatenation. -/
theorem cat_append_shift (pre post : List ((w : Nat) × BitVec w)) :
    cat (pre ++ post) >>> catWidth pre = cat post := by
  induction pre with
  | nil => simp
  | cons f pre ih =>
    obtain ⟨w, v⟩ := f
    have hv := v.isLt
    rw [List.cons_append, catWidth_cons, Nat.shiftRight_add]
    have : cat (⟨w, v⟩ :: (pre ++ post)) >>> w = cat (pre ++ post) := by
      rw [Nat.shiftRight_eq_div_pow, cat, Nat.add_mul_div_left _ _ (Nat.two_pow_pos w),
        Nat.div_eq_of_lt hv, Nat.zero_add]
    simp only [this, ih]

/-- A concatenation of two lists of parts. -/
theorem cat_append (pre post : List ((w : Nat) × BitVec w)) :
    cat (pre ++ post) = cat pre + 2 ^ catWidth pre * cat post := by
  induction pre with
  | nil => simp [cat]
  | cons f pre ih =>
    obtain ⟨w, v⟩ := f
    simp only [List.cons_append, cat, ih, catWidth_cons, pow_add]
    ring

/-- A part of a concatenation is read back at its position (R12). -/
theorem fieldAt_cat {w : Nat} (pre : List ((w : Nat) × BitVec w)) (v : BitVec w)
    (post : List ((w : Nat) × BitVec w)) {lo : Nat} (hlo : lo = catWidth pre) :
    fieldAt w lo (cat (pre ++ ⟨w, v⟩ :: post)) = v := by
  subst hlo
  rw [fieldAt, cat_append_shift, cat]
  apply BitVec.eq_of_toNat_eq
  rw [BitVec.toNat_ofNat, Nat.add_mul_mod_self_left, Nat.mod_eq_of_lt v.isLt]

/-- A field below bit `m` is the same in any two bit strings that agree below bit `m` (R78). -/
theorem fieldAt_congr {w lo m B B' : Nat} (h : B % 2 ^ m = B' % 2 ^ m) (hle : lo + w ≤ m) :
    fieldAt w lo B = fieldAt w lo B' := by
  have key : ∀ X : Nat, (X >>> lo) % 2 ^ w = ((X % 2 ^ m) >>> lo) % 2 ^ w := by
    intro X
    apply Nat.eq_of_testBit_eq
    intro i
    simp only [Nat.testBit_mod_two_pow, Nat.testBit_shiftRight]
    by_cases hi : i < w
    · have : lo + i < m := by omega
      simp [hi, this]
    · simp [hi]
  apply BitVec.eq_of_toNat_eq
  simp only [fieldAt, BitVec.toNat_ofNat]
  rw [key B, key B', h]

/-- The words of a bit string joined again: its bits below `n * ws` (R71, R80). -/
theorem joinWords_splitWords (ws B n : Nat) : joinWords (splitWords ws B n) = B % 2 ^ (n * ws) := by
  induction n with
  | zero => simp [splitWords, joinWords, cat, Nat.mod_one]
  | succ n ih =>
    have hw : ∀ l : List (BitVec ws),
        catWidth (l.map fun v => (⟨ws, v⟩ : (w : Nat) × BitVec w)) = l.length * ws := by
      intro l
      induction l with
      | nil => simp
      | cons a l ihl => simp [ihl, Nat.succ_mul, Nat.add_comm]
    simp only [splitWords, joinWords, List.range_succ, List.map_append, List.map_cons, List.map_nil] at ih ⊢
    have hw' := hw ((List.range n).map (wordAt ws B))
    simp only [List.length_map, List.length_range] at hw'
    rw [cat_append, ih, hw']
    simp only [cat, wordAt, fieldAt, BitVec.toNat_ofNat, Nat.mul_zero, Nat.add_zero]
    rw [Nat.succ_mul, pow_add, Nat.mod_mul, Nat.shiftRight_eq_div_pow]

@[simp] theorem length_splitWords (ws B n : Nat) : (splitWords ws B n).length = n := by
  simp [splitWords]

theorem getD_splitWords {ws B n i : Nat} (h : i < n) (d : BitVec ws) :
    (splitWords ws B n).getD i d = wordAt ws B i := by
  simp [splitWords, h]

/-- The words of `n` bits cover them (R10). -/
theorem le_wordsFor_mul {c : Config} (h : 1 ≤ c.ws) (n : Nat) : n ≤ c.wordsFor n * c.ws := by
  unfold Config.wordsFor
  have := Nat.div_add_mod (n + (c.ws - 1)) c.ws
  have := Nat.mod_lt (n + (c.ws - 1)) (by omega : 0 < c.ws)
  have hc : (n + (c.ws - 1)) / c.ws * c.ws = c.ws * ((n + (c.ws - 1)) / c.ws) := Nat.mul_comm _ _
  omega

/-- Word 0 of a bit string whose lowest part is a code holds that code in its header bits (R70, R81). -/
theorem headerCode_splitWords_cat {c : Config} (hle : c.h ≤ c.ws) {n code : Nat} (hn : 1 ≤ n)
    (hcode : code < 2 ^ c.h) (fs : List ((w : Nat) × BitVec w)) :
    headerCode c ((splitWords c.ws (cat (⟨c.h, BitVec.ofNat c.h code⟩ :: fs)) n).headD 0) = code := by
  obtain ⟨m, rfl⟩ : ∃ m, n = m + 1 := ⟨n - 1, by omega⟩
  rw [splitWords, List.range_succ_eq_map, List.map_cons, List.headD_cons]
  simp only [headerCode, wordAt, fieldAt, BitVec.toNat_ofNat, Nat.zero_mul, Nat.shiftRight_zero, cat]
  rw [Nat.mod_mod_of_dvd _ (Nat.pow_dvd_pow 2 hle), Nat.add_mul_mod_self_left, Nat.mod_mod,
    Nat.mod_eq_of_lt hcode]

end Sys2Proof
end

