-- ==== Sys2Proof/Laws/PerInstr.lean ====
section
/-! SUPPORT. Laws/PerInstr.lean: the family `WordMap`: for each row of the opcode table, the number of words
30_encoding.md R79 gives it at the default configuration and the type code its first word holds. -/

namespace Sys2Proof.Laws.WordMap

/-- The row of 30_encoding.md R79: the words of the packet (for Write, the header part) and its code. -/
def row : Instr → Nat × Nat
  | .echoRequest => (1, 0x00)
  | .setTime _ => (3, 0x01)
  | .reset _ => (1, 0x02)
  | .write _ _ _ _ _ => (4, 0x03)
  | .bufferSpaceRequest => (1, 0x04)
  | .readRequest _ _ => (3, 0x05)
  | .echoReply => (1, 0x00)
  | .bufferSpaceReply _ => (1, 0x01)
  | .readReplyNoEvent _ => (1, 0x02)
  | .readReply _ _ => (4, 0x03)

/-- The encoding has the number of words and the code of its row (30_encoding.md R72, R73, R79). -/
def Statement (i : Instr) : Prop :=
  (encode i).length = (row i).1 ∧ headerCode Config.dflt ((encode i).headD 0) = (row i).2

/-- An inbound packet of a type has the length and the code of the type. -/
theorem of_in (p : InPkt Config.dflt) (T : InType) (hT : p.type = T) :
    (encodeIn p).length = Config.dflt.lenIn T ∧
      headerCode Config.dflt ((encodeIn p).headD 0) = Config.dflt.codeIn T := by
  subst hT
  exact ⟨length_splitWords .., headerCode_splitWords_cat (by decide)
    (by generalize p.type = T; cases T <;> decide) (by generalize p.type = T; cases T <;> decide) _⟩

/-- An outbound packet of a type has the length and the code of the type. -/
theorem of_out (q : OutPkt Config.dflt) (T : OutType) (hT : q.type = T) :
    (encodeOut q).length = Config.dflt.lenOut T ∧
      headerCode Config.dflt ((encodeOut q).headD 0) = Config.dflt.codeOut T := by
  subst hT
  exact ⟨length_splitWords .., headerCode_splitWords_cat (by decide)
    (by generalize q.type = T; cases T <;> decide) (by generalize q.type = T; cases T <;> decide) _⟩

theorem echoRequest : Statement .echoRequest := of_in .echoRequest .echoRequest rfl
theorem setTime (timestamp : BitVec Config.wTs) : Statement (.setTime timestamp) := of_in (.setTime timestamp) .setTime rfl
theorem reset (phy : BitVec Config.wPhy) : Statement (.reset phy) := of_in (.reset phy) .reset rfl
theorem write (channel : BitVec Config.dflt.wCh) (timestamp : BitVec Config.dflt.wWts)
    (address : BitVec Config.dflt.wAddr) (extraWordCount : BitVec Config.dflt.wExtra)
    (shortData : BitVec Config.dflt.wShort) :
    Statement (.write channel timestamp address extraWordCount shortData) :=
  of_in (.write channel timestamp address extraWordCount shortData) .write rfl
theorem bufferSpaceRequest : Statement .bufferSpaceRequest := of_in .bufferSpaceRequest .bufferSpaceRequest rfl
theorem readRequest (channel : BitVec Config.dflt.wCh) (timeout : BitVec Config.dflt.wTimeout) :
    Statement (.readRequest channel timeout) := of_in (.readRequest channel timeout) .readRequest rfl
theorem echoReply : Statement .echoReply := of_out .echoReply .echoReply rfl
theorem bufferSpaceReply (space : BitVec Config.wSpace) : Statement (.bufferSpaceReply space) :=
  of_out (.bufferSpaceReply space) .bufferSpaceReply rfl
theorem readReplyNoEvent (overflow : BitVec Config.wOvf) : Statement (.readReplyNoEvent overflow) :=
  of_out (.readReplyNoEvent overflow) .readReplyNoEvent rfl
theorem readReply (timestamp : BitVec Config.wRts) (data : BitVec Config.dflt.wRdata) :
    Statement (.readReply timestamp data) := of_out (.readReply timestamp data) .readReply rfl

end Sys2Proof.Laws.WordMap
end

