-- ==== Sys2Proof/Laws/Premises.lean ====
section
/-! SUPPORT. Laws/Premises.lean: what the premises of 70_reset_and_hazards.md R274 give a claim: each sentence of
the I/O core's duties E2 and E3 (20_memory.md R58) as a lemma about two ticks of a run. -/

namespace Sys2Proof.Machine

section
variable {c : Config} {inputs : List (Inputs c)} {outs : List (Outputs c)}

/-- The tick after a read's submission follows it. -/
theorem FollowsRead.next {n : Nat} {out : Outputs c} (h : outs[n]? = some out) (hr : out.submitsRead = true) :
    FollowsRead outs n (n + 1) :=
  ⟨Nat.lt_succ_self n, ⟨out, h, hr⟩, fun k _ h₁ h₂ => by omega⟩

/-- E2: a read submitted at a tick is pending at the next. -/
theorem ReadPendingNext.pending_next {n : Nat} {out : Outputs c} {inp : Inputs c}
    (h : ReadPendingNext inputs outs) (ho : outs[n]? = some out) (hr : out.submitsRead = true)
    (hi : inputs[n + 1]? = some inp) : inp.ioStatusPending = true := by
  obtain ⟨r, flags, hlt, hm⟩ := h n
  by_contra hp
  obtain ⟨k, hk, hle⟩ := (hm _ _ (.next ho hr) hi).1.1 (by simpa using hp)
  have := hlt k hk
  omega

/-- E2: a read once resolved stays resolved, with the flags of its one outcome, up to the next read. -/
theorem ReadPendingNext.stays_resolved {n m m' : Nat} {inp inp' : Inputs c}
    (h : ReadPendingNext inputs outs) (hf : FollowsRead outs n m) (hf' : FollowsRead outs n m') (hle : m ≤ m')
    (hi : inputs[m]? = some inp) (hi' : inputs[m']? = some inp') (hp : inp.ioStatusPending = false) :
    inp'.ioStatusPending = false ∧ inp'.outcomeFlags = inp.outcomeFlags := by
  obtain ⟨r, flags, -, hm⟩ := h n
  obtain ⟨k, hk, hkm⟩ := (hm _ _ hf hi).1.1 hp
  have hp' := (hm _ _ hf' hi').1.2 ⟨k, hk, by omega⟩
  exact ⟨hp', ((hm _ _ hf' hi').2 hp').trans ((hm _ _ hf hi).2 hp).symm⟩

/-- E2: before its resolution a read is pending in every tick since its submission. -/
theorem ReadPendingNext.pending_until {n m m' : Nat} {inp inp' : Inputs c}
    (h : ReadPendingNext inputs outs) (hf : FollowsRead outs n m) (hf' : FollowsRead outs n m') (hle : m ≤ m')
    (hi : inputs[m]? = some inp) (hi' : inputs[m']? = some inp') (hp : inp'.ioStatusPending = true) :
    inp.ioStatusPending = true := by
  by_contra hn
  have := (h.stays_resolved hf hf' hle hi hi' (by simpa using hn)).1
  simp [hp] at this

/-- E3: two ticks that show a read resolved without an error flag show one result. -/
theorem ResultValid.one_result {n m m' : Nat} {inp inp' : Inputs c} (h : ResultValid inputs outs)
    (hf : FollowsRead outs n m) (hf' : FollowsRead outs n m')
    (hi : inputs[m]? = some inp) (hi' : inputs[m']? = some inp')
    (hp : inp.ioStatusPending = false) (hg : inp.outcomeFlags = (false, false))
    (hp' : inp'.ioStatusPending = false) (hg' : inp'.outcomeFlags = (false, false)) :
    (inp.ioResultTimestamp, inp.ioResultData) = (inp'.ioResultTimestamp, inp'.ioResultData) := by
  obtain ⟨result, hm⟩ := h n
  simp only [Inputs.outcomeFlags, Prod.mk.injEq] at hg hg'
  rw [hm _ _ hf hi hp hg.1 hg.2, hm _ _ hf' hi' hp' hg'.1 hg'.2]

end

end Sys2Proof.Machine
end

