-- ==== Sys2Proof/Laws/State.lean ====
section
/-! SUPPORT. Laws/State.lean: one lemma per field per update, for the operations of Machine/Ops.lean and
for the ports and the counter a committed tick leaves, so that no later proof unfolds a record update. -/

namespace Sys2Proof.Machine

section
variable {c : Config} (r : RxResult c)

@[simp] theorem goto_regs (S : RxState) : (r.goto S).regs = { r.regs with state := S } := rfl
@[simp] theorem goto_ports (S : RxState) : (r.goto S).ports = r.ports := rfl
@[simp] theorem goto_sig (S : RxState) : (r.goto S).sig = r.sig := rfl

@[simp] theorem signal_regs (g : RxSignals c) : (r.signal g).regs = r.regs := rfl
@[simp] theorem signal_ports (g : RxSignals c) : (r.signal g).ports = r.ports := rfl
@[simp] theorem signal_sig (g : RxSignals c) : (r.signal g).sig = g := rfl

@[simp] theorem submit_regs {w : Nat} (cmd : IoCmd) (ch : BitVec c.wCh) (ts : BitVec w) (a : BitVec c.wAddr)
    (x : BitVec c.wWdata) : (r.submit cmd ch ts a x).regs = r.regs := rfl
@[simp] theorem submit_sig {w : Nat} (cmd : IoCmd) (ch : BitVec c.wCh) (ts : BitVec w) (a : BitVec c.wAddr)
    (x : BitVec c.wWdata) : (r.submit cmd ch ts a x).sig = r.sig := rfl
@[simp] theorem submit_ports {w : Nat} (cmd : IoCmd) (ch : BitVec c.wCh) (ts : BitVec w) (a : BitVec c.wAddr)
    (x : BitVec c.wWdata) : (r.submit cmd ch ts a x).ports =
      { r.ports with
        ioCmd := cmd, ioChannel := ch, ioTimestamp := ts.setWidth c.wIoTs, ioAddress := a, ioData := x } := rfl

@[simp] theorem pulseTscLoad_regs (v : BitVec Config.wTs) : (r.pulseTscLoad v).regs = r.regs := rfl
@[simp] theorem pulseTscLoad_sig (v : BitVec Config.wTs) : (r.pulseTscLoad v).sig = r.sig := rfl
@[simp] theorem pulseTscLoad_ports (v : BitVec Config.wTs) :
    (r.pulseTscLoad v).ports = { r.ports with tscLoad := true, tscValue := v } := rfl

@[simp] theorem pulseResetOut_regs : r.pulseResetOut.regs = r.regs := rfl
@[simp] theorem pulseResetOut_sig : r.pulseResetOut.sig = r.sig := rfl
@[simp] theorem pulseResetOut_ports : r.pulseResetOut.ports = { r.ports with resetOut := true } := rfl

@[simp] theorem pulseResetPhyOut_regs : r.pulseResetPhyOut.regs = r.regs := rfl
@[simp] theorem pulseResetPhyOut_sig : r.pulseResetPhyOut.sig = r.sig := rfl
@[simp] theorem pulseResetPhyOut_ports : r.pulseResetPhyOut.ports = { r.ports with resetPhyOut := true } := rfl

@[simp] theorem raiseTruncated_regs : r.raiseTruncated.regs = r.regs := rfl
@[simp] theorem raiseTruncated_sig : r.raiseTruncated.sig = r.sig := rfl
@[simp] theorem raiseTruncated_ports : r.raiseTruncated.ports = { r.ports with packetTruncated := true } := rfl

@[simp] theorem accClear_regs :
    r.accClear.regs = { r.regs with accCnt := 0, accWords := Vector.replicate c.nmax 0 } := rfl
@[simp] theorem accClear_sig : r.accClear.sig = r.sig := rfl
@[simp] theorem accClear_ports : r.accClear.ports = r.ports := rfl

@[simp] theorem accPush_regs (s : RxRegs c) (d : Word c) : (r.accPush s d).regs =
    { r.regs with accWords := s.accWords.setIfInBounds s.accCnt.toNat d, accCnt := s.accCnt + 1 } := rfl
@[simp] theorem accPush_sig (s : RxRegs c) (d : Word c) : (r.accPush s d).sig = r.sig := rfl
@[simp] theorem accPush_ports (s : RxRegs c) (d : Word c) : (r.accPush s d).ports = r.ports := rfl
end

section
variable {c : Config} (t : RxTick c)

@[simp] theorem base_regs : t.base.regs = t.asm.regs := rfl
@[simp] theorem base_sig : t.base.sig = .quiet := rfl
@[simp] theorem base_ports : t.base.ports =
    { RxPorts.defaults t.dr with unknownPacketType := t.asm.unknownType, packetTruncated := t.asm.truncated } :=
  rfl
end

section
variable {c : Config} (f : FlowRegs c) (r : RxSignals c) (t : TxSignals)

@[simp] theorem mergeFlow_bufferSpace : (mergeFlow f r t).bufferSpace = mergeBufferSpace f.bufferSpace r := rfl
@[simp] theorem mergeFlow_bsReq : (mergeFlow f r t).bsReq = mergeBsReq f.bsReq r t := rfl
@[simp] theorem mergeFlow_rr : (mergeFlow f r t).rr = mergeReadSlot f.rr r t := rfl
@[simp] theorem mergeFlow_echoReq : (mergeFlow f r t).echoReq = r.echoSet := rfl
end

@[simp] theorem commit_ok (s : State) (e : Engine Config.dflt) (o : Outputs Config.dflt) :
    s.commit (.ok (e, o)) = .next { eng := e, inputs := s.inputs.tail, out := o, tick := s.tick + 1 } := rfl
@[simp] theorem commit_error (s : State) (f : Fault) : s.commit (.error f) = .fault f := rfl

theorem nextInputs_cons {s : State} {inp : Inputs Config.dflt} {rest : List (Inputs Config.dflt)}
    (h : s.inputs = inp :: rest) : s.nextInputs = inp := by
  simp [State.nextInputs, h]

end Sys2Proof.Machine
end

