-- ==== Sys2Proof/Laws/Process.lean ====
section
/-! SUPPORT. Laws/Process.lean: one spec lemma for each shared operation of a tick, which says everything
it can do: the assembler, the receive process, the reply process and the composition. -/

namespace Sys2Proof.Machine

section
variable {c : Config}

/-! ### The assembler -/

/-- With no packet in progress and no rising edge in `Idle`, the assembler only follows the frame. -/
theorem assemble_quiet {s : RxRegs c} {inp : Inputs c} (hb : s.asmBusy = false)
    (h : s.state ≠ .idle ∨ inp.rxFrameActive = false ∨ s.framePrev = true) :
    assemble s inp = asmQuiet s inp.rxFrameActive := by
  rcases h with h | h | h <;> simp [assemble, rising, hb, h]

/-- A rising edge in `Idle` is read as a header. -/
theorem assemble_header {s : RxRegs c} {inp : Inputs c} (hb : s.asmBusy = false)
    (hs : s.state = .idle) (hf : inp.rxFrameActive = true) (hp : s.framePrev = false) :
    assemble s inp = asmHeader s true inp.rxData := by
  simp [assemble, rising, hb, hs, hf, hp]

/-- A further word of a packet in progress. -/
theorem assemble_collect {s : RxRegs c} {inp : Inputs c} (hb : s.asmBusy = true)
    (hf : inp.rxFrameActive = true) : assemble s inp = asmCollect s true inp.rxData := by
  simp [assemble, hb, hf]

/-- The end of a frame inside a packet. -/
theorem assemble_truncate {s : RxRegs c} {inp : Inputs c} (hb : s.asmBusy = true)
    (hf : inp.rxFrameActive = false) : assemble s inp = asmTruncate s false := by
  simp [assemble, hb, hf]

/-- Everything the assembler can do in a tick: nothing, start, store, complete, or raise one condition
(40_packet_assembler.md R109). -/
theorem assemble_cases {s : RxRegs c} {inp : Inputs c} {a : AsmResult c} (h : assemble s inp = a) :
    (s.asmBusy = false ∧ a = asmQuiet s inp.rxFrameActive) ∨
    (s.asmBusy = false ∧ s.state = .idle ∧ inp.rxFrameActive = true ∧ s.framePrev = false ∧
      ((typeOfCodeIn c (headerCode c inp.rxData) = none ∧ a = asmUnknown s true) ∨
       (∃ T, typeOfCodeIn c (headerCode c inp.rxData) = some T ∧ c.lenIn T = 1 ∧
          a = asmComplete s true (decodeIn c T [inp.rxData])) ∨
       (∃ T, typeOfCodeIn c (headerCode c inp.rxData) = some T ∧ c.lenIn T ≠ 1 ∧
          a = asmStart s true T inp.rxData))) ∨
    (s.asmBusy = true ∧ inp.rxFrameActive = true ∧ s.asmIdx + 1 = c.lenIn s.asmType ∧
      a = asmComplete s true (decodeIn c s.asmType (asmWords s inp.rxData))) ∨
    (s.asmBusy = true ∧ inp.rxFrameActive = true ∧ s.asmIdx + 1 ≠ c.lenIn s.asmType ∧
      a = asmStore s true inp.rxData) ∨
    (s.asmBusy = true ∧ inp.rxFrameActive = false ∧ a = asmTruncate s false) := by
  cases hb : s.asmBusy with
  | false =>
    by_cases he : s.state = .idle ∧ inp.rxFrameActive = true ∧ s.framePrev = false
    · obtain ⟨hs, hf, hp⟩ := he
      rw [assemble_header hb hs hf hp] at h
      subst h
      refine .inr (.inl ⟨rfl, hs, hf, hp, ?_⟩)
      unfold asmHeader
      cases hT : typeOfCodeIn c (headerCode c inp.rxData) with
      | none => exact .inl ⟨rfl, rfl⟩
      | some T =>
        by_cases hl : c.lenIn T = 1
        · exact .inr (.inl ⟨T, rfl, hl, by simp [hl]⟩)
        · exact .inr (.inr ⟨T, rfl, hl, by simp [hl]⟩)
    · have hq : s.state ≠ .idle ∨ inp.rxFrameActive = false ∨ s.framePrev = true := by
        cases hf : inp.rxFrameActive <;> cases hp : s.framePrev <;> simp_all
      rw [assemble_quiet hb hq] at h
      exact .inl ⟨rfl, h.symm⟩
  | true =>
    refine .inr (.inr ?_)
    cases hf : inp.rxFrameActive with
    | false =>
      rw [assemble_truncate hb hf] at h
      exact .inr (.inr ⟨rfl, rfl, h.symm⟩)
    | true =>
      rw [assemble_collect hb hf, asmCollect] at h
      split at h
      · exact .inl ⟨rfl, rfl, ‹_›, h.symm⟩
      · exact .inr (.inl ⟨rfl, rfl, ‹_›, h.symm⟩)

/-- The longest inbound packet is at least as long as each. -/
theorem lenIn_le_lmaxIn (c : Config) (T : InType) : c.lenIn T ≤ c.lmaxIn := by
  cases T <;> simp [Config.lmaxIn, InType.all]

/-! ### The receive process -/

/-- In `Idle` the tick's packet is the one the assembler completes. -/
theorem rxCurrent_idle {s : RxRegs c} {inp : Inputs c} (hs : s.state = .idle) :
    rxCurrent s inp = (assemble s inp).done := by
  simp only [rxCurrent, hs]

/-- In a handling state that reads `pkt` the tick's packet is `pkt`. -/
theorem rxCurrent_handling {s : RxRegs c} {inp : Inputs c} (hs : s.state ≠ .idle)
    (hb : s.state ≠ .handlingBufferSpaceRequest) : rxCurrent s inp = s.pkt := by
  unfold rxCurrent
  split <;> simp_all

/-- In `HandlingBufferSpaceRequest` the tick's packet is BufferSpaceRequest. -/
theorem rxCurrent_bufferSpaceRequest {s : RxRegs c} {inp : Inputs c}
    (hs : s.state = .handlingBufferSpaceRequest) : rxCurrent s inp = some .bufferSpaceRequest := by
  simp only [rxCurrent, hs]

/-- The receive process with a packet runs the packet's rule. -/
theorem receive_some {s : RxRegs c} {inp : Inputs c} {p : InPkt c} (dr : Draws c)
    (h : rxCurrent s inp = some p) : receive s inp dr = .ok (rxPacket p ⟨s, assemble s inp, inp, dr⟩) := by
  simp only [receive, h]

/-- The receive process with no packet waits or finds `pkt` empty. -/
theorem receive_none {s : RxRegs c} {inp : Inputs c} (dr : Draws c) (h : rxCurrent s inp = none) :
    receive s inp dr = rxNoPacket ⟨s, assemble s inp, inp, dr⟩ := by
  simp only [receive, h]

/-- The `Idle` tick of a packet of each type (42_receive_dispatch.md R140, R142, R145). -/
theorem rxPacket_idle {t : RxTick c} (hs : t.s.state = .idle) (p : InPkt c) :
    rxPacket p t =
      match p.type with
       | .echoRequest => (t.base.signal { RxSignals.quiet (c := c) with echoSet := true }).goto .idle
       | .setTime => t.base.goto .handlingSetTime
       | .reset => t.base.goto .handlingReset
       | .write => t.base.goto .handlingWrite
       | .bufferSpaceRequest => t.base.goto .handlingBufferSpaceRequest
       | .readRequest => t.base.goto .handlingReadRequest := by
  cases p <;>
    simp [rxPacket, rxEchoRequest, rxSetTime, rxReset, rxWrite, rxBufferSpaceRequest, rxReadRequest, hs,
      InPkt.type]

/-- Under I4 the last case of `receive_cases` is excluded. -/
theorem RxRegs.Inv.pkt_of_state {s : RxRegs c} (hs : s.Inv) :
    ¬ ∃ p T, s.pkt = some p ∧ s.state.handles = some T ∧ p.type ≠ T := by
  rintro ⟨p, T, hp, hT, hne⟩
  obtain ⟨q, hq, rfl⟩ := hs.handling T hT
  exact hne (by rw [Option.some.inj (hp.symm.trans hq)])

/-- Everything the receive process can do in a tick (42_receive_dispatch.md R140 to R150;
41_write_accumulator.md R123 to R125; the last case is log entry 6). -/
theorem receive_cases {s : RxRegs c} {inp : Inputs c} {dr : Draws c} {r : RxResult c}
    (h : receive s inp dr = .ok r) :
    ∃ a, assemble s inp = a ∧
      ((s.state = .idle ∧ a.done = none ∧ r = (RxTick.mk s a inp dr).base.goto .idle) ∨
       (s.state = .idle ∧ ∃ p, a.done = some p ∧ r = rxPacket p (RxTick.mk s a inp dr)) ∨
       (s.state = .handlingSetTime ∧ ∃ v, s.pkt = some (.setTime v) ∧
          r = ((RxTick.mk s a inp dr).base.pulseTscLoad v).goto .idle) ∨
       (s.state = .handlingReset ∧ ∃ phy, s.pkt = some (.reset phy) ∧
          r = (resetEffect phy (RxTick.mk s a inp dr)).goto .idle) ∨
       (s.state = .handlingWrite ∧ ∃ channel timestamp address k shortData,
          s.pkt = some (.write channel timestamp address k shortData) ∧
          r = handleWrite channel timestamp address k shortData (RxTick.mk s a inp dr)) ∨
       (s.state = .handlingBufferSpaceRequest ∧
          r = ((RxTick.mk s a inp dr).base.signal
            { RxSignals.quiet (c := c) with bsSet := true, bsUpdate := some inp.ioBufferSpace }).goto .idle) ∨
       (s.state = .handlingReadRequest ∧ ∃ channel timeout, s.pkt = some (.readRequest channel timeout) ∧
          r = (((RxTick.mk s a inp dr).base.submit .read channel timeout dr.ioAddress dr.ioData).signal
            { RxSignals.quiet (c := c) with rrLoad := some (channel, timeout) }).goto .idle) ∨
       (s.state ≠ .idle ∧ s.state ≠ .handlingBufferSpaceRequest ∧
          (∃ p T, s.pkt = some p ∧ s.state.handles = some T ∧ p.type ≠ T) ∧
          r = (RxTick.mk s a inp dr).base)) := by
  refine ⟨assemble s inp, rfl, ?_⟩
  by_cases hi : s.state = .idle
  · cases hd : (assemble s inp).done with
    | none =>
      rw [receive_none dr ((rxCurrent_idle hi).trans hd)] at h
      simp only [rxNoPacket, hi] at h
      exact .inl ⟨hi, rfl, (Except.ok.inj h).symm⟩
    | some p =>
      rw [receive_some dr ((rxCurrent_idle hi).trans hd)] at h
      exact .inr (.inl ⟨hi, p, rfl, (Except.ok.inj h).symm⟩)
  · by_cases hb : s.state = .handlingBufferSpaceRequest
    · rw [receive_some dr (rxCurrent_bufferSpaceRequest hb)] at h
      simp only [rxPacket, rxBufferSpaceRequest, hb] at h
      exact .inr (.inr (.inr (.inr (.inr (.inl ⟨hb, (Except.ok.inj h).symm⟩)))))
    · have hc := rxCurrent_handling (inp := inp) hi hb
      cases hp : s.pkt with
      | none =>
        rw [receive_none dr (hc.trans hp)] at h
        simp only [rxNoPacket] at h
        split at h <;> simp_all
      | some p =>
        rw [receive_some dr (hc.trans hp)] at h
        obtain rfl := Except.ok.inj h
        cases p <;>
          simp only [rxPacket, rxEchoRequest, rxSetTime, rxReset, rxWrite, rxBufferSpaceRequest,
            rxReadRequest] <;>
          split <;> simp_all [RxState.handles, InPkt.type]

/-- Everything a `HandlingWrite` tick can do (41_write_accumulator.md R123 to R125; the last case is log
entry 6). -/
theorem handleWrite_cases {t : RxTick c} {channel : BitVec c.wCh} {timestamp : BitVec c.wWts}
    {address : BitVec c.wAddr} {k : BitVec c.wExtra} {shortData : BitVec c.wShort} {r : RxResult c}
    (h : r = handleWrite channel timestamp address k shortData t) :
    (t.s.accCnt < k ∧ t.inp.rxFrameActive = true ∧
      r = (t.base.accPush t.s t.inp.rxData).goto .handlingWrite) ∨
    (t.s.accCnt < k ∧ t.inp.rxFrameActive = false ∧ r = t.base.raiseTruncated.accClear.goto .idle) ∨
    (t.s.accCnt = k ∧
      r = ((t.base.submit .write channel timestamp address (accData shortData t.s.accWords)).accClear.goto
        .idle)) ∨
    (k < t.s.accCnt ∧ r = t.base) := by
  subst h
  unfold handleWrite
  by_cases hl : t.s.accCnt < k
  · cases hf : t.inp.rxFrameActive <;> simp [hl]
  · by_cases he : t.s.accCnt = k
    · simp [he]
    · have hg : k < t.s.accCnt := by
        rw [BitVec.lt_def] at hl ⊢
        have := mt BitVec.eq_of_toNat_eq he
        omega
      simp [hl, he, hg]

/-- The receive process under its invariants never faults. -/
theorem receive_ok {s : RxRegs c} (hs : s.Inv) (inp : Inputs c) (dr : Draws c) :
    ∃ r, receive s inp dr = .ok r := by
  cases hc : rxCurrent s inp with
  | some p => exact ⟨_, receive_some dr hc⟩
  | none =>
    rw [receive_none dr hc]
    cases hst : s.state with
    | idle => exact ⟨_, by simp only [rxNoPacket, hst]; rfl⟩
    | handlingBufferSpaceRequest => rw [rxCurrent_bufferSpaceRequest hst] at hc; cases hc
    | _ =>
      rw [rxCurrent_handling (by simp [hst]) (by simp [hst])] at hc
      obtain ⟨p, hp, -⟩ := hs.handling _ (by rw [hst]; rfl)
      rw [hc] at hp; cases hp

/-! ### The reply process -/

/-- The reply process with a packet runs the packet's rule. -/
theorem reply_some {s : TxRegs c} {flow : FlowRegs c} {inp : Inputs c} {dr : Draws c} {q : OutPkt c}
    (h : txCurrent s flow inp dr = some q) : reply s flow inp dr = .ok (txPacket q ⟨s, dr⟩) := by
  simp only [reply, h]

/-- In `Idle` the tick's reply is the one chosen. -/
theorem txCurrent_idle {s : TxRegs c} {flow : FlowRegs c} {inp : Inputs c} {dr : Draws c}
    (hs : s.state = .idle) : txCurrent s flow inp dr = chooseReply flow inp dr := by
  simp only [txCurrent, hs]

/-- In a reply state the tick's reply is `em_pkt`. -/
theorem txCurrent_emitting {s : TxRegs c} {flow : FlowRegs c} {inp : Inputs c} {dr : Draws c}
    (hs : s.state ≠ .idle) : txCurrent s flow inp dr = s.emPkt := by
  unfold txCurrent
  split <;> simp_all

/-- The `Idle` tick that chooses each reply (43_reply_generation.md R171 to R176). -/
theorem txPacket_idle {t : TxTick c} (hs : t.s.state = .idle) (q : OutPkt c) :
    txPacket q t =
      match q with
      | .echoReply => txChoose q .echo .quiet t
      | .bufferSpaceReply _ => txChoose q .bufferSpaceReply { bsClear := true, rrClear := false } t
      | .readReplyNoEvent overflow => txChoose q (noEventState overflow) { bsClear := false, rrClear := true } t
      | .readReply _ _ => txChoose q .read { bsClear := false, rrClear := true } t := by
  cases q <;> simp only [txPacket, txEchoReply, txBufferSpaceReply, txReadReplyNoEvent, txReadReply, hs]

/-- A tick of a reply state is the emission of `em_pkt` (43_reply_generation.md R178). -/
theorem txPacket_emits {t : TxTick c} (hs : t.s.state ≠ .idle) (q : OutPkt c) : txPacket q t = txEmit q t := by
  cases q <;> simp only [txPacket, txEchoReply, txBufferSpaceReply, txReadReplyNoEvent, txReadReply] <;>
    split <;> simp_all

/-- The reply process under its invariants never faults. -/
theorem reply_ok {s : TxRegs c} (hs : s.Inv) (flow : FlowRegs c) (inp : Inputs c) (dr : Draws c) :
    ∃ t, reply s flow inp dr = .ok t := by
  by_cases hi : s.state = .idle
  · cases hc : chooseReply flow inp dr with
    | none =>
      exact ⟨_, by simp only [reply, (txCurrent_idle hi).trans hc, txNoPacket, hi]; rfl⟩
    | some q => exact ⟨_, reply_some ((txCurrent_idle hi).trans hc)⟩
  · obtain ⟨q, hq, -, -⟩ := hs.emitting hi
    exact ⟨_, reply_some ((txCurrent_emitting hi).trans hq)⟩

/-- Everything the reply process can do in a tick (43_reply_generation.md R171, R178;
44_packet_emitter.md R201, R202; the last case is log entry 6). -/
theorem reply_cases {s : TxRegs c} {flow : FlowRegs c} {inp : Inputs c} {dr : Draws c} {t : TxResult c}
    (h : reply s flow inp dr = .ok t) :
    (s.state = .idle ∧ chooseReply flow inp dr = none ∧ t = txIdle ⟨s, dr⟩) ∨
    (s.state = .idle ∧ ∃ q, chooseReply flow inp dr = some q ∧ t = txPacket q ⟨s, dr⟩) ∨
    (s.state ≠ .idle ∧ ∃ q, s.emPkt = some q ∧ s.emIdx + 1 = c.lenOut q.type ∧
      t = { regs := { s with state := .idle, emIdx := 0 }, ports := emitPorts q s.emIdx, sig := .quiet }) ∨
    (s.state ≠ .idle ∧ ∃ q, s.emPkt = some q ∧ s.emIdx + 1 < c.lenOut q.type ∧
      t = { regs := { s with emIdx := s.emIdx + 1 }, ports := emitPorts q s.emIdx, sig := .quiet }) ∨
    (s.state ≠ .idle ∧ ∃ q, s.emPkt = some q ∧ c.lenOut q.type ≤ s.emIdx ∧
      t = { regs := s, ports := { emitPorts q s.emIdx with txData := dr.txData }, sig := .quiet }) := by
  by_cases hi : s.state = .idle
  · cases hc : chooseReply flow inp dr with
    | none =>
      simp only [reply, (txCurrent_idle hi).trans hc, txNoPacket, hi] at h
      exact .inl ⟨hi, rfl, (Except.ok.inj h).symm⟩
    | some q =>
      rw [reply_some ((txCurrent_idle hi).trans hc)] at h
      exact .inr (.inl ⟨hi, q, rfl, (Except.ok.inj h).symm⟩)
  · have hcur := txCurrent_emitting (flow := flow) (inp := inp) (dr := dr) hi
    cases hq : s.emPkt with
    | none =>
      simp only [reply, hcur.trans hq, txNoPacket] at h
      split at h <;> simp_all
    | some q =>
      rw [reply_some (hcur.trans hq), txPacket_emits hi, txEmit] at h
      obtain rfl := Except.ok.inj h
      by_cases hl : s.emIdx + 1 = c.lenOut q.type
      · exact .inr (.inr (.inl ⟨hi, q, rfl, hl, by rw [← hq]; exact if_pos hl⟩))
      · by_cases hlt : s.emIdx + 1 < c.lenOut q.type
        · exact .inr (.inr (.inr (.inl ⟨hi, q, rfl, hlt, by rw [← hq]; exact (if_neg hl).trans (if_pos hlt)⟩)))
        · exact .inr (.inr (.inr (.inr ⟨hi, q, rfl, by omega, (if_neg hl).trans (if_neg hlt)⟩)))

/-! ### The composition -/

/-- Everything a tick can be: the reset step, or the merge of what the two processes yield. -/
theorem engineTick_cases {e : Engine c} {inp : Inputs c} {dr : Draws c} {e' : Engine c} {out : Outputs c}
    (h : engineTick c e inp dr = .ok (e', out)) :
    (inp.rst = true ∧ e' = .resetTick dr ∧ out = .defaults dr) ∨
    (inp.rst = false ∧ ∃ r t, receive e.rx inp dr = .ok r ∧ reply e.tx e.flow inp dr = .ok t ∧
      e' = { rx := r.regs, tx := t.regs, flow := mergeFlow e.flow r.sig t.sig } ∧
      out = { rx := r.ports, tx := t.ports }) := by
  unfold engineTick tickWith at h
  cases hr : inp.rst with
  | true =>
    rw [hr, if_pos rfl] at h
    cases h
    exact .inl ⟨rfl, rfl, rfl⟩
  | false =>
    rw [hr] at h
    simp only [Bool.false_eq_true, if_false] at h
    split at h
    · cases h
    · split at h
      · cases h
      · rename_i r hr' _ t ht
        cases h
        exact .inr ⟨rfl, r, t, hr', ht, rfl, rfl⟩

/-- A tick without `rst` in which both processes answer. -/
theorem engineTick_of {e : Engine c} {inp : Inputs c} {dr : Draws c} {r : RxResult c} {t : TxResult c}
    (h : inp.rst = false) (hr : receive e.rx inp dr = .ok r) (ht : reply e.tx e.flow inp dr = .ok t) :
    engineTick c e inp dr =
      .ok ({ rx := r.regs, tx := t.regs, flow := mergeFlow e.flow r.sig t.sig },
        { rx := r.ports, tx := t.ports }) := by
  simp [engineTick, tickWith, h, hr, ht, merge]

end

end Sys2Proof.Machine
end

