-- ==== Sys2Proof/Laws/Tick.lean ====
section
/-! SUPPORT. Laws/Tick.lean: one spec lemma for each way a state runs a tick (a packet of the receive
process, a packet of the reply process, the plain tick), and the fact that they are one and the same tick. -/

namespace Sys2Proof.Machine

/-- A tick in which the assembler exposes a packet is the one R108 describes. -/
theorem assemble_of_done {c : Config} {s : RxRegs c} {inp : Inputs c} {P : InPkt c}
    (h : (assemble s inp).done = some P) : assemble s inp = asmComplete s inp.rxFrameActive P := by
  rcases assemble_cases (rfl : assemble s inp = _) with
    ⟨-, ha⟩ | ⟨-, -, hf, -, ⟨-, ha⟩ | ⟨T, -, -, ha⟩ | ⟨T, -, -, ha⟩⟩ | ⟨-, hf, -, ha⟩ | ⟨-, -, -, ha⟩ |
      ⟨-, -, ha⟩ <;>
    rw [ha] at h ⊢ <;> cases h <;> rw [hf]

/-- The receive process where its packet is `P` is the receive process by the rule of `P`. -/
theorem receiveAs_current {c : Config} {s : RxRegs c} {inp : Inputs c} {dr : Draws c} {P : InPkt c}
    (h : rxCurrent s inp = some P) : receive s inp dr = .ok (receiveAs P (rxPacket P) s inp dr) := by
  rw [receive_some dr h]
  unfold receiveAs
  split
  · rename_i hs
    rw [assemble_of_done ((rxCurrent_idle hs).symm.trans h)]
  all_goals rfl

/-- A tick by the inbound packet the receive process has is the plain tick. -/
theorem inboundTick_eq_plainTick {s : State} {P : InPkt Config.dflt}
    (h : rxCurrent s.eng.rx s.nextInputs = some P) : s.inboundTick P (rxPacket P) = s.plainTick := by
  simp only [State.inboundTick, State.plainTick, engineTick, receiveAs_current h]

/-- A tick by the outbound packet the reply process has is the plain tick. -/
theorem outboundTick_eq_plainTick {s : State} {Q : OutPkt Config.dflt}
    (h : txCurrent s.eng.tx s.eng.flow s.nextInputs s.draws = some Q) :
    s.outboundTick (txPacket Q) = s.plainTick := by
  simp only [State.outboundTick, State.plainTick, engineTick, reply_some h]

/-- The meaning of an inbound packet is its rule's tick. -/
theorem exec_ofIn (s : State) (P : InPkt Config.dflt) :
    exec (Instr.ofIn P) s = s.inboundTick P (rxPacket P) := by
  cases P <;> rfl

/-- The meaning of an outbound packet is its rule's tick. -/
theorem exec_ofOut (s : State) (Q : OutPkt Config.dflt) :
    exec (Instr.ofOut Q) s = s.outboundTick (txPacket Q) := by
  cases Q <;> rfl

/-- The next state of a tick by an inbound packet, once both processes are known to answer. -/
theorem inboundTick_of {s : State} {P : InPkt Config.dflt}
    {meaning : RxTick Config.dflt → RxResult Config.dflt} {r : RxResult Config.dflt}
    {t : TxResult Config.dflt} (h : s.nextInputs.rst = false)
    (hr : receiveAs P meaning s.eng.rx s.nextInputs s.draws = r)
    (ht : reply s.eng.tx s.eng.flow s.nextInputs s.draws = .ok t) :
    s.inboundTick P meaning = .next
      { eng := { rx := r.regs, tx := t.regs, flow := mergeFlow s.eng.flow r.sig t.sig }
        inputs := s.inputs.tail, out := { rx := r.ports, tx := t.ports }, tick := s.tick + 1 } := by
  simp [State.inboundTick, tickWith, h, hr, ht, merge]

/-- The next state of a tick by an outbound packet, once both processes are known to answer. -/
theorem outboundTick_of {s : State} {meaning : TxTick Config.dflt → TxResult Config.dflt}
    {r : RxResult Config.dflt} {t : TxResult Config.dflt} (h : s.nextInputs.rst = false)
    (hr : receive s.eng.rx s.nextInputs s.draws = .ok r)
    (ht : meaning { s := s.eng.tx, dr := s.draws } = t) :
    s.outboundTick meaning = .next
      { eng := { rx := r.regs, tx := t.regs, flow := mergeFlow s.eng.flow r.sig t.sig }
        inputs := s.inputs.tail, out := { rx := r.ports, tx := t.ports }, tick := s.tick + 1 } := by
  simp [State.outboundTick, tickWith, h, hr, ht, merge]

/-- In `Idle` a packet's rule runs over the tick that completes it. -/
theorem receiveAs_idle {c : Config} {s : RxRegs c} (hs : s.state = .idle) (P : InPkt c)
    (meaning : RxTick c → RxResult c) (inp : Inputs c) (dr : Draws c) :
    receiveAs P meaning s inp dr =
      meaning { s := s, asm := asmComplete s inp.rxFrameActive P, inp := inp, dr := dr } := by
  simp only [receiveAs, hs]

/-- In a handling state a packet's rule runs over a quiet assembler. -/
theorem receiveAs_handling {c : Config} {s : RxRegs c} (hs : s.state ≠ .idle) (hb : s.asmBusy = false)
    (P : InPkt c) (meaning : RxTick c → RxResult c) (inp : Inputs c) (dr : Draws c) :
    receiveAs P meaning s inp dr =
      meaning { s := s, asm := asmQuiet s inp.rxFrameActive, inp := inp, dr := dr } := by
  unfold receiveAs
  split
  · contradiction
  all_goals simp only [assemble_quiet hb (.inl hs)]

end Sys2Proof.Machine
end

