-- ==== Sys2Proof/Tests/Slice0.lean ====
section
/-! SUPPORT. Tests/Slice0.lean: checks against words and values written out from the spec (the vector or rule
is named with each), the smoke tests of WellFormed, and one witness for the premises of each statement. -/

namespace Sys2Proof.Tests
open Sys2Proof.Machine

/-! ### Configurations and small states -/

/-- The default configuration at another link word width (95_test_vectors.md section 2.2). -/
abbrev atWidth (ws : Nat) : Config := { Config.dflt with ws := ws }

/-- Every input 0 (95_test_vectors.md: an input not given is 0). -/
def quietIn : Inputs Config.dflt where
  rst := false
  rxFrameActive := false
  rxData := 0
  ioStatusPending := false
  ioStatusTimedOut := false
  ioStatusOverflowed := false
  ioResultTimestamp := 0
  ioResultData := 0
  ioBufferSpace := 0

/-- A word of an active frame, every other input 0. -/
def link (w : Word Config.dflt) : Inputs Config.dflt := { quietIn with rxFrameActive := true, rxData := w }

/-- The draws the witnesses use. -/
def dr (n : Nat) : Draws Config.dflt := .free Config.dflt n

/-- The engine after reset. -/
def r0 : Engine Config.dflt := State.reset.eng

/-- The engine in a handling state. -/
def handling (S : RxState) (p : InPkt Config.dflt) : Engine Config.dflt :=
  { r0 with rx := { r0.rx with state := S, framePrev := true, pkt := some p } }

/-- The engine after words of a SetTime frame. -/
def collecting (idx : Nat) (words : List (Word Config.dflt)) : Engine Config.dflt :=
  { r0 with rx :=
      { r0.rx with
        framePrev := true, asmBusy := true, asmType := .setTime, asmIdx := idx
        asmBuf := Vector.ofFn fun i => words.getD i.val 0 } }

/-- The engine in a reply state. -/
def emitting (S : TxState) (q : OutPkt Config.dflt) (idx : Nat) : Engine Config.dflt :=
  { r0 with tx := { state := S, emPkt := some q, emIdx := idx } }

/-- The engine with requests pending. -/
def pendingReplies (echo bs rr : Bool) : Engine Config.dflt :=
  { r0 with flow :=
      { bufferSpace := 42, bsReq := bs, rr := { channel := 9, timeout := 200, pending := rr }, echoReq := echo } }

/-- A state of the host's machine with one listed input. -/
def at' (e : Engine Config.dflt) (inp : Inputs Config.dflt) : State :=
  { State.reset with eng := e, inputs := [inp] }

/-- A test on the next state of a step. -/
def stepGives (s : State) (test : State → Bool) : Bool :=
  match step s with
  | .next t => test t
  | .fault _ => false
  | .refused _ => false

/-! ### WellFormed (00_scope.md R9; 30_encoding.md R77). R9 (e) holds of every configuration. -/

theorem test_wellFormed_default : Config.dflt.wellFormed = true := by decide
theorem test_illFormed_ws_below_h : (atWidth 7).wellFormed = false := by decide
theorem test_illFormed_equal_inbound_codes :
    { Config.dflt with tcIn := { Config.dflt.tcIn with reset := 1 } }.wellFormed = false := by decide
theorem test_illFormed_inbound_code_too_large :
    { Config.dflt with tcIn := { Config.dflt.tcIn with reset := 256 } }.wellFormed = false := by decide
theorem test_illFormed_equal_outbound_codes :
    { Config.dflt with tcOut := { Config.dflt.tcOut with echoReply := 3 } }.wellFormed = false := by decide
theorem test_illFormed_outbound_code_too_large :
    { Config.dflt with tcOut := { Config.dflt.tcOut with echoReply := 256 } }.wellFormed = false := by decide
theorem test_illFormed_zero_width : { Config.dflt with wExtra := 0 }.wellFormed = false := by decide
theorem test_frame_of_declared_length :
    (Frame.mk (c := Config.dflt) (.write 1 10 0 2 0xAB) [0x11111111, 0x22222222]).wellFormed = true := by decide
theorem test_frame_too_short :
    (Frame.mk (c := Config.dflt) (.write 1 10 0 2 0xAB) [0x11111111]).wellFormed = false := by decide
theorem test_frame_with_surplus_word :
    (Frame.mk (c := Config.dflt) .echoRequest [0x00000004]).wellFormed = false := by decide

/-! ### Words written out from the encoding (95_test_vectors.md sections 2.1 and 2.2) -/

/-- V-N1c, V-N1d, V-R3. -/
theorem test_decode_reset :
    decode .inbound [0x00000002] = .ok (.reset 0, []) ∧ decode .inbound [0x00000102] = .ok (.reset 1, []) ∧
      decode .inbound [0xFFFFFE02] = .ok (.reset 0, []) := by decide
/-- V-W2: every field at its maximum. -/
theorem test_decode_write_maximum :
    decode .inbound [0xFFFFFF03, 0xFFFFFFFF, 0xFFFFFFFF, 0xFF00FFFF]
      = .ok (.write 0xFFFFFF 0xFFFFFFFFFFFFFFFF 0xFFFF 0 0xFF, []) := by decide
/-- V-Q2 and V-S2. -/
theorem test_decode_maximum_fields :
    decode .inbound [0xFFFFFF05, 0xFFFFFFFF, 0xFFFFFFFF] = .ok (.readRequest 0xFFFFFF 0xFFFFFFFFFFFFFFFF, []) ∧
      decode .inbound [0xFFFFFF01, 0xFFFFFFFF, 0x000000FF] = .ok (.setTime 0xFFFFFFFFFFFFFFFF, []) := by decide
/-- V-E3 and V-N1f: padding is ignored. -/
theorem test_decode_header_only :
    decode .inbound [0xDEADBE00] = .ok (.echoRequest, []) ∧
      decode .inbound [0x00000004] = .ok (.bufferSpaceRequest, []) := by decide
/-- V-N1h to V-N1l. -/
theorem test_decode_outbound :
    decode .outbound [0x00000000] = .ok (.echoReply, []) ∧
      decode .outbound [0x00FFFF01] = .ok (.bufferSpaceReply 0xFFFF, []) ∧
      decode .outbound [0x00000002] = .ok (.readReplyNoEvent 0, []) ∧
      decode .outbound [0x0001F403, 0x00000000, 0x00ABCD00, 0x00000000] = .ok (.readReply 500 0xABCD, []) := by
  decide
/-- 30_encoding.md R81: the first unknown code and the last, and the outbound map's first unknown code. -/
theorem test_decode_unknown :
    decode .inbound [0x00000006] = .error (.unknownType 6) ∧
      decode .inbound [0x000000FF, 0x12345678] = .error (.unknownType 255) ∧
      decode .outbound [0x00000004] = .error (.unknownType 4) ∧ decode .inbound [] = .error .noWords := by decide
/-- V-S3 and V-W4: fewer words than the type declares. -/
theorem test_decode_truncated :
    decode .inbound [0x00000501, 0x00000000] = .error (.truncated 2 3) ∧
      decode .inbound [0x00000103, 0x00000001, 0x00000000] = .error (.truncated 3 4) := by decide

/-- V-N1b, V-N1e, V-N1g. -/
theorem test_encode_inbound :
    encode (.setTime 0x1122334455667788) = [0x66778801, 0x22334455, 0x00000011] ∧
      encode (.write 1 10 0 2 0xAB) = [0x00000103, 0x0000000A, 0x00000000, 0xAB020000] ∧
      encode (.readRequest 3 100) = [0x00000305, 0x00000064, 0x00000000] := by decide
/-- V-N1i to V-N1l. -/
theorem test_encode_outbound :
    encode (.bufferSpaceReply 42) = [0x00002A01] ∧ encode (.readReplyNoEvent 1) = [0x00000102] ∧
      encode (.readReply 500 0xABCD) = [0x0001F403, 0x00000000, 0x00ABCD00, 0x00000000] := by decide
/-- V-N2, V-N3a and V-N4c at `WS = 8`. -/
theorem test_encode_ws8 :
    encodeIn (.reset 1 : InPkt (atWidth 8)) = [0x02, 0x01] ∧
      encodeIn (.setTime 0x1122334455667788 : InPkt (atWidth 8))
        = [0x01, 0x88, 0x77, 0x66, 0x55, 0x44, 0x33, 0x22, 0x11] ∧
      encodeOut (.readReply 500 0xABCD : OutPkt (atWidth 8))
        = [0x03, 0xF4, 0x01, 0x00, 0x00, 0x00, 0x00, 0x00, 0x00, 0xCD, 0xAB, 0x00, 0x00] := by decide
/-- V-N3c and V-N4c at `WS = 16`. -/
theorem test_encode_ws16 :
    encodeIn (.write 1 10 0 2 0xAB : InPkt (atWidth 16))
        = [0x0103, 0x0000, 0x000A, 0x0000, 0x0000, 0x0000, 0x0000, 0xAB02] ∧
      encodeOut (.readReply 500 0xABCD : OutPkt (atWidth 16))
        = [0xF403, 0x0001, 0x0000, 0x0000, 0xCD00, 0x00AB, 0x0000] := by decide
/-- V-N3b and V-N4c at `WS = 64`: the timeout crosses the word boundary. -/
theorem test_ws64 :
    decodeInWords (atWidth 64) [0x0000006400000305, 0x0000000000000000] = .ok (.readRequest 3 100, []) ∧
      encodeOut (.readReply 500 0xABCD : OutPkt (atWidth 64)) = [0x000000000001F403, 0x0000000000ABCD00] := by
  decide
/-- The rows of spec/opcode_table.json by their codes; code `0x06` is no row. -/
theorem test_decodeTableWord :
    decodeTableWord 8 0 = some .echoRequest ∧ decodeTableWord 72 1 = some (.setTime 0) ∧
      decodeTableWord 9 0x102 = some (.reset 1) ∧ decodeTableWord 128 3 = some (.write 0 0 0 0 0) ∧
      decodeTableWord 8 4 = some .bufferSpaceRequest ∧ decodeTableWord 96 0x305 = some (.readRequest 3 0) ∧
      decodeTableWord 8 6 = none := by decide

/-! ### One step -/

/-- V-E1, tick 0. -/
theorem test_echoRequest_pulses :
    stepGives (at' r0 (link 0x00000000)) (fun t =>
      t.eng.flow.echoReq && decide (t.eng.rx.state = .idle) && decide (t.eng.rx.pkt = some .echoRequest)) = true := by
  decide
/-- V-S1, tick 3. -/
theorem test_setTime_loads :
    stepGives (at' (handling .handlingSetTime (.setTime 0x1122334455667788)) quietIn) (fun t =>
      t.out.rx.tscLoad && decide (t.out.rx.tscValue = 0x1122334455667788) && decide (t.eng.rx.state = .idle))
      = true := by decide
/-- V-S1, tick 2: the last word completes the packet. -/
theorem test_setTime_completes :
    stepGives (at' (collecting 2 [0x66778801, 0x22334455]) (link 0x00000011)) (fun t =>
      decide (t.eng.rx.pkt = some (.setTime 0x1122334455667788)) && decide (t.eng.rx.state = .handlingSetTime)
        && !t.eng.rx.asmBusy && !t.out.rx.tscLoad) = true := by decide
/-- V-R1, and 42_receive_dispatch.md R147: the full reset. -/
theorem test_reset_full :
    stepGives (at' { handling .handlingReset (.reset 0) with flow := (pendingReplies false true true).flow } quietIn)
      (fun t => t.out.rx.resetOut && !t.out.rx.resetPhyOut && !t.eng.flow.bsReq && !t.eng.flow.rr.pending
        && decide (t.eng.flow.bufferSpace = 42)) = true := by decide
/-- V-R2: the phy reset clears no latch. -/
theorem test_reset_phy :
    stepGives (at' { handling .handlingReset (.reset 1) with flow := (pendingReplies false false true).flow }
        { quietIn with ioStatusPending := true })
      (fun t => t.out.rx.resetPhyOut && !t.out.rx.resetOut && t.eng.flow.rr.pending) = true := by decide
/-- V-W1: no payload word, the write in the first handling tick. -/
theorem test_write_without_payload :
    stepGives (at' (handling .handlingWrite (.write 7 3 4 0 0x5A)) quietIn) (fun t =>
      decide (t.out.rx.ioCmd = .write) && decide (t.out.rx.ioChannel = 7) && decide (t.out.rx.ioTimestamp = 3)
        && decide (t.out.rx.ioAddress = 4)) = true := by decide
/-- P4, tick 12: the payload cut short. -/
theorem test_write_truncated :
    stepGives (at' { handling .handlingWrite (.write 2 5 1 2 0) with
        rx := { (handling .handlingWrite (.write 2 5 1 2 0)).rx with accCnt := 1 } } quietIn)
      (fun t => t.out.rx.packetTruncated && decide (t.out.rx.ioCmd = .none) && decide (t.eng.rx.state = .idle)
        && decide (t.eng.rx.accCnt = 0)) = true := by decide
/-- V-B1, tick 1. -/
theorem test_bufferSpaceRequest_snapshots :
    stepGives (at' (handling .handlingBufferSpaceRequest .bufferSpaceRequest) { quietIn with ioBufferSpace := 42 })
      (fun t => t.eng.flow.bsReq && decide (t.eng.flow.bufferSpace = 42)) = true := by decide
/-- P8, tick 10: the set wins over the clear, and the reply keeps the older snapshot. -/
theorem test_bufferSpaceRequest_set_wins :
    stepGives (at' { handling .handlingBufferSpaceRequest .bufferSpaceRequest with
        flow := (pendingReplies false true false).flow } { quietIn with ioBufferSpace := 6 })
      (fun t => t.eng.flow.bsReq && decide (t.eng.flow.bufferSpace = 6)
        && decide (t.eng.tx.emPkt = some (.bufferSpaceReply 42))) = true := by decide
/-- V-Q2, tick 3. -/
theorem test_readRequest_submits :
    stepGives (at' (handling .handlingReadRequest (.readRequest 0xFFFFFF 0xFFFFFFFFFFFFFFFF)) quietIn) (fun t =>
      decide (t.out.rx.ioCmd = .read) && decide (t.out.rx.ioChannel = 0xFFFFFF)
        && decide (t.out.rx.ioTimestamp = 0xFFFFFFFFFFFFFFFF)
        && decide (t.eng.flow.rr = { channel := 0xFFFFFF, timeout := 0xFFFFFFFFFFFFFFFF, pending := true }))
      = true := by decide
/-- P3, tick 7: the load of the second read wins over the clear of the first. -/
theorem test_readRequest_load_wins :
    stepGives (at' { handling .handlingReadRequest (.readRequest 9 200) with
        flow := (pendingReplies false false true).flow }
        { quietIn with ioResultTimestamp := 500, ioResultData := 0xABCD })
      (fun t => t.eng.flow.rr.pending && decide (t.eng.tx.emPkt = some (.readReply 500 0xABCD))) = true := by decide
/-- P3, tick 12: echo first. -/
theorem test_echoReply_first :
    stepGives (at' (pendingReplies true true true) quietIn) (fun t =>
      decide (t.eng.tx.state = .echo) && t.eng.flow.bsReq && t.eng.flow.rr.pending && !t.out.tx.txFrameActive)
      = true := by decide
/-- V-E1, tick 2. -/
theorem test_echoReply_word :
    stepGives (at' (emitting .echo .echoReply 0) quietIn) (fun t =>
      t.out.tx.txFrameActive && decide (t.out.tx.txData = 0x00000000) && t.out.tx.txLastWord
        && decide (t.eng.tx.state = .idle)) = true := by decide
/-- V-B1, tick 2. -/
theorem test_bufferSpaceReply_chosen :
    stepGives (at' (pendingReplies false true true) quietIn) (fun t =>
      decide (t.eng.tx.emPkt = some (.bufferSpaceReply 42)) && !t.eng.flow.bsReq && t.eng.flow.rr.pending) = true := by
  decide
/-- V-B1, tick 3. -/
theorem test_bufferSpaceReply_word :
    stepGives (at' (emitting .bufferSpaceReply (.bufferSpaceReply 42) 0) quietIn) (fun t =>
      t.out.tx.txFrameActive && decide (t.out.tx.txData = 0x00002A01) && t.out.tx.txLastWord) = true := by decide
/-- P6, tick 9. -/
theorem test_readReplyNoEvent_timeout :
    stepGives (at' (pendingReplies false false true) { quietIn with ioStatusTimedOut := true }) (fun t =>
      decide (t.eng.tx.state = .readTimeout) && decide (t.eng.tx.emPkt = some (.readReplyNoEvent 0))
        && decide (t.eng.flow.rr = { channel := 9, timeout := 200, pending := false })) = true := by decide
/-- 43_reply_generation.md R175, example: the overflow reply's word. -/
theorem test_readReplyNoEvent_overflow_word :
    stepGives (at' (emitting .readOverflow (.readReplyNoEvent 1) 0) quietIn) (fun t =>
      decide (t.out.tx.txData = 0x00000102) && t.out.tx.txLastWord) = true := by decide
/-- P1, tick 10: an inner word of a reply. -/
theorem test_readReply_inner_word :
    stepGives (at' (emitting .read (.readReply 500 0xABCD) 2) quietIn) (fun t =>
      decide (t.out.tx.txData = 0x00ABCD00) && !t.out.tx.txLastWord && decide (t.eng.tx.emIdx = 3)) = true := by decide
/-- P1, tick 11: the last word. -/
theorem test_readReply_last_word :
    stepGives (at' (emitting .read (.readReply 500 0xABCD) 3) quietIn) (fun t =>
      t.out.tx.txLastWord && decide (t.out.tx.txData = 0x00000000) && decide (t.eng.tx.state = .idle)
        && decide (t.eng.tx.emIdx = 0)) = true := by decide
/-- V-U2. -/
theorem test_unknown_code :
    stepGives (at' r0 (link 0x00000006)) (fun t =>
      t.out.rx.unknownPacketType && decide (t.eng.rx.pkt = none) && !t.eng.rx.asmBusy) = true := by decide
/-- V-S3, tick 2. -/
theorem test_header_cut_short :
    stepGives (at' (collecting 2 [0x00000501, 0x00000000]) quietIn) (fun t =>
      t.out.rx.packetTruncated && decide (t.eng.rx.pkt = none) && !t.eng.rx.asmBusy) = true := by decide
/-- A placed word runs: the Write of V-W1 in its `Idle` tick. -/
theorem test_placed_write_runs :
    stepGives (State.reset.withFetchWord 128 0x5A000004000000000000000300000703) (fun t =>
      decide (t.eng.rx.pkt = some (.write 7 3 4 0 0x5A)) && decide (t.eng.rx.state = .handlingWrite)) = true := by
  decide

/-- P2, tick 6: the data of the command, at `W_EXTRA = 2`. -/
theorem test_accData_order :
    accData (c := { Config.dflt with wExtra := 2 }) 0xAB #v[0x11111111, 0x22222222, 0x00000000]
      = 0x2222222211111111AB := by decide

/-! ### Witnesses: for each statement with premises, values that meet all of them together -/

theorem r0_inv : r0.Inv := by
  refine ⟨⟨?_, ?_, ?_, ?_, ?_⟩, ⟨?_, ?_⟩⟩ <;> simp [r0, State.reset, Engine.resetWith, RxState.handles]

theorem pendingReplies_inv (echo bs rr : Bool) : (pendingReplies echo bs rr).Inv := ⟨r0_inv.rx, r0_inv.tx⟩

theorem handling_inv {S : RxState} {p : InPkt Config.dflt} (hS : S.handles = some p.type) : (handling S p).Inv := by
  refine ⟨⟨?_, ?_, ?_, ?_, ?_⟩, r0_inv.tx⟩ <;> simp [handling, r0, State.reset, Engine.resetWith, hS]
  intros
  rw [BitVec.le_def]
  simp

theorem collecting_inv {idx : Nat} (words : List (Word Config.dflt)) (h1 : 1 ≤ idx) (h2 : idx < 3) :
    (collecting idx words).Inv := by
  refine ⟨⟨?_, ?_, ?_, ?_, ?_⟩, r0_inv.tx⟩ <;>
    simp [collecting, r0, State.reset, Engine.resetWith, RxState.handles]
  exact ⟨h1, lt_of_lt_of_le h2 (by decide)⟩

theorem emitting_inv {S : TxState} {q : OutPkt Config.dflt} {idx : Nat} (hS : S.sends q)
    (hi : idx < Config.dflt.lenOut q.type) : (emitting S q idx).Inv := by
  refine ⟨r0_inv.rx, ⟨fun _ => ⟨q, rfl, hS, hi⟩, ?_⟩⟩
  rintro rfl
  exact hS.elim

/-- A tick answers. -/
def Ticks (e : Engine Config.dflt) (inp : Inputs Config.dflt) (n : Nat) : Prop :=
  ∃ e' out, engineTick Config.dflt e inp (dr n) = .ok (e', out)

/-! The encoding: the premise is R9; the packets and words are free. -/

theorem witness_InboundPacketsRoundTrip : Config.dflt.wellFormed = true ∧ (atWidth 8).wellFormed = true := by decide
theorem witness_OutboundPacketsRoundTrip : Config.dflt.wellFormed = true ∧ (atWidth 64).wellFormed = true := by decide
theorem witness_EmittedPacketHasItsLengthCodeAndZeroPadding : (atWidth 16).wellFormed = true := by decide
theorem witness_HeaderCodeNamesItsTypeOrNone : Config.dflt.wellFormed = true := by decide
/-- V-R3 beside V-R1: the same Reset with other padding. -/
theorem witness_ReceivedPaddingIsIgnored :
    joinWords ([0xFFFFFE02] : List (Word Config.dflt)) % 2 ^ Config.dflt.bitsIn .reset
      = joinWords ([0x00000002] : List (Word Config.dflt)) % 2 ^ Config.dflt.bitsIn .reset := by decide
/-- Both sides of the boundary of R81. -/
theorem witness_UnrecognisedCodesAtTheDefaults :
    typeOfCodeIn Config.dflt (headerCode Config.dflt 0x05) = some .readRequest ∧
      typeOfCodeIn Config.dflt (headerCode Config.dflt 0x06) = none := by decide

/-! The Packet Assembler. -/

theorem witness_FirstWordStartsAMultiWordPacket :
    (r0.tx.Inv ∧ (link 0x66778801).rst = false ∧ r0.rx.asmBusy = false ∧ (link 0x66778801).rxFrameActive = true ∧
      r0.rx.framePrev = false ∧ r0.rx.state = .idle ∧
      typeOfCodeIn Config.dflt (headerCode Config.dflt (link 0x66778801).rxData) = some .setTime ∧
      1 < Config.dflt.lenIn .setTime) ∧
    (quietIn.rst = false ∧ (collecting 1 [0x66778801]).rx.asmBusy = true ∧
      Ticks (collecting 1 [0x66778801]) (link 0x22334455) 0) :=
  ⟨⟨r0_inv.tx, rfl, rfl, rfl, rfl, rfl, by decide, by decide⟩, rfl, rfl, _, _, rfl⟩
theorem witness_OneWordPacketCompletesAtOnce :
    r0.tx.Inv ∧ (link 0).rst = false ∧ r0.rx.asmBusy = false ∧ (link 0).rxFrameActive = true ∧
      r0.rx.framePrev = false ∧ r0.rx.state = .idle ∧
      typeOfCodeIn Config.dflt (headerCode Config.dflt (link 0).rxData) = some .echoRequest ∧
      Config.dflt.lenIn .echoRequest = 1 :=
  ⟨r0_inv.tx, rfl, rfl, rfl, rfl, rfl, by decide, by decide⟩
/-- An inner word, and the last word. -/
theorem witness_FurtherWordIsStoredOrCompletes :
    (∀ idx, idx = 1 ∨ idx = 2 → (collecting idx [0x66778801]).Inv ∧ (collecting idx [0x66778801]).rx.asmBusy = true) ∧
      (link 0).rst = false ∧ (link 0).rxFrameActive = true ∧
      1 + 1 ≠ Config.dflt.lenIn .setTime ∧ 2 + 1 = Config.dflt.lenIn .setTime := by
  refine ⟨?_, rfl, rfl, by decide, by decide⟩
  intro idx h
  exact ⟨collecting_inv _ (by omega) (by omega), rfl⟩
/-- The first unknown code and the last. -/
theorem witness_UnknownCodeRaisesAndDiscards :
    r0.tx.Inv ∧ r0.rx.asmBusy = false ∧ r0.rx.framePrev = false ∧ r0.rx.state = .idle ∧
      ∀ w, w = 0x06 ∨ w = 0xFF → (link w).rst = false ∧ (link w).rxFrameActive = true ∧
        typeOfCodeIn Config.dflt (headerCode Config.dflt (link w).rxData) = none := by
  refine ⟨r0_inv.tx, rfl, rfl, rfl, ?_⟩
  rintro w (rfl | rfl) <;> exact ⟨rfl, rfl, by decide⟩
theorem witness_FrameDropTruncatesThePacket :
    (collecting 1 [0x00000501]).Inv ∧ quietIn.rst = false ∧ (collecting 1 [0x00000501]).rx.asmBusy = true ∧
      quietIn.rxFrameActive = false :=
  ⟨collecting_inv _ (by omega) (by omega), rfl, rfl, rfl⟩
/-- An inactive frame, and the second word of V-E4. -/
theorem witness_WordWithoutARisingEdgeIsIgnored :
    (r0.tx.Inv ∧ r0.rx.asmBusy = false ∧ r0.rx.state = .idle ∧ quietIn.rst = false ∧ quietIn.rxFrameActive = false) ∧
    ({ r0 with rx := { r0.rx with framePrev := true } } : Engine Config.dflt).rx.framePrev = true ∧
      (link 4).rst = false := ⟨⟨r0_inv.tx, rfl, rfl, rfl, rfl⟩, rfl, rfl⟩
theorem witness_InactiveFrameResynchronises :
    quietIn.rxFrameActive = false ∧ Ticks (collecting 1 [0x00000501]) quietIn 0 := ⟨rfl, _, _, rfl⟩
/-- V-N1b as three ticks. -/
theorem witness_FrameIsAssembledIntoItsPacket :
    Config.dflt.wellFormed = true ∧ r0.Inv ∧ r0.rx.state = .idle ∧ r0.rx.asmBusy = false ∧ r0.rx.framePrev = false ∧
      ([link 0x66778801, link 0x22334455, link 0x00000011].map fun i => (i.rst, i.rxFrameActive, i.rxData))
        = (encodeIn (.setTime 0x1122334455667788 : InPkt Config.dflt)).map fun w => (false, true, w) :=
  ⟨by decide, r0_inv, rfl, rfl, rfl, by decide⟩

/-! The inbound packets. -/

theorem witness_EchoRequestSetsTheHandshake :
    (at' r0 (link 0)).nextInputs.rst = false ∧ (at' r0 (link 0)).eng.tx.Inv ∧
      (at' r0 (link 0)).eng.rx.state = .idle := ⟨rfl, r0_inv.tx, rfl⟩
theorem witness_CompletedPacketEntersItsHandlingState :
    (InPkt.setTime 0 : InPkt Config.dflt).type ≠ .echoRequest ∧ (at' r0 (link 1)).nextInputs.rst = false ∧
      (at' r0 (link 1)).eng.tx.Inv ∧ (at' r0 (link 1)).eng.rx.state = .idle :=
  ⟨by decide, rfl, r0_inv.tx, rfl⟩
theorem witness_SetTimeLoadsTheTimestampCounter :
    (at' (handling .handlingSetTime (.setTime 7)) quietIn).nextInputs.rst = false ∧
      (handling .handlingSetTime (.setTime 7)).tx.Inv ∧
      (handling .handlingSetTime (.setTime 7)).rx.state = .handlingSetTime ∧
      (handling .handlingSetTime (.setTime 7)).rx.asmBusy = false := ⟨rfl, r0_inv.tx, rfl, rfl⟩
theorem witness_PhyResetOnlyPulses :
    (at' (handling .handlingReset (.reset 1)) quietIn).nextInputs.rst = false ∧
      (handling .handlingReset (.reset 1)).tx.Inv ∧ (handling .handlingReset (.reset 1)).rx.state = .handlingReset ∧
      (handling .handlingReset (.reset 1)).rx.asmBusy = false := ⟨rfl, r0_inv.tx, rfl, rfl⟩
theorem witness_FullResetPulsesAndClearsTheLatches :
    (at' (handling .handlingReset (.reset 0)) quietIn).nextInputs.rst = false ∧
      (handling .handlingReset (.reset 0)).tx.Inv ∧ (handling .handlingReset (.reset 0)).rx.state = .handlingReset ∧
      (handling .handlingReset (.reset 0)).rx.asmBusy = false := ⟨rfl, r0_inv.tx, rfl, rfl⟩
/-- The largest declared count. -/
theorem witness_WriteConsumesAPayloadWord :
    (at' (handling .handlingWrite (.write 1 2 3 255 4)) (link 9)).nextInputs.rst = false ∧
      (handling .handlingWrite (.write 1 2 3 255 4)).tx.Inv ∧
      (handling .handlingWrite (.write 1 2 3 255 4)).rx.state = .handlingWrite ∧
      (handling .handlingWrite (.write 1 2 3 255 4)).rx.asmBusy = false ∧
      (handling .handlingWrite (.write 1 2 3 255 4)).rx.accCnt < (255 : BitVec 8) ∧
      (link 9).rxFrameActive = true := ⟨rfl, r0_inv.tx, rfl, rfl, by decide, rfl⟩
theorem witness_WriteTruncatesWithoutACommand :
    (at' (handling .handlingWrite (.write 1 2 3 1 4)) quietIn).nextInputs.rst = false ∧
      (handling .handlingWrite (.write 1 2 3 1 4)).tx.Inv ∧
      (handling .handlingWrite (.write 1 2 3 1 4)).rx.state = .handlingWrite ∧
      (handling .handlingWrite (.write 1 2 3 1 4)).rx.asmBusy = false ∧
      (handling .handlingWrite (.write 1 2 3 1 4)).rx.accCnt < (1 : BitVec 8) ∧
      quietIn.rxFrameActive = false := ⟨rfl, r0_inv.tx, rfl, rfl, by decide, rfl⟩
theorem witness_WriteSubmitsAtTheDeclaredCount :
    (at' (handling .handlingWrite (.write 7 3 4 0 0x5A)) quietIn).nextInputs.rst = false ∧
      (handling .handlingWrite (.write 7 3 4 0 0x5A)).tx.Inv ∧
      (handling .handlingWrite (.write 7 3 4 0 0x5A)).rx.state = .handlingWrite ∧
      (handling .handlingWrite (.write 7 3 4 0 0x5A)).rx.asmBusy = false ∧
      (handling .handlingWrite (.write 7 3 4 0 0x5A)).rx.accCnt = (0 : BitVec 8) := ⟨rfl, r0_inv.tx, rfl, rfl, rfl⟩
/-- P2: two payload words of two. -/
theorem witness_WriteWithAllItsWordsIsIssuedOnce :
    Config.dflt.wellFormed = true ∧ (handling .handlingWrite (.write 1 10 0 2 0xAB)).Inv ∧
      (handling .handlingWrite (.write 1 10 0 2 0xAB)).rx.state = .handlingWrite ∧
      (handling .handlingWrite (.write 1 10 0 2 0xAB)).rx.pkt = some (.write 1 10 0 2 0xAB) ∧
      (handling .handlingWrite (.write 1 10 0 2 0xAB)).rx.accCnt = 0 ∧
      ([0x11111111, 0x22222222] : List (Word Config.dflt)).length = (2 : BitVec 8).toNat ∧
      ([link 0x11111111, link 0x22222222].map fun i => (i.rst, i.rxFrameActive, i.rxData))
        = ([0x11111111, 0x22222222] : List (Word Config.dflt)).map (fun w => (false, true, w)) ∧
      quietIn.rst = false := ⟨by decide, handling_inv rfl, rfl, rfl, rfl, rfl, by decide, rfl⟩
/-- P4, ticks 11 and 12: one payload word of two. -/
theorem witness_WriteWithFewerWordsIsNeverIssued :
    Config.dflt.wellFormed = true ∧ (handling .handlingWrite (.write 2 5 1 2 0)).Inv ∧
      (handling .handlingWrite (.write 2 5 1 2 0)).rx.state = .handlingWrite ∧
      (handling .handlingWrite (.write 2 5 1 2 0)).rx.pkt = some (.write 2 5 1 2 0) ∧
      (handling .handlingWrite (.write 2 5 1 2 0)).rx.accCnt = 0 ∧
      ([0xCAFEF00D] : List (Word Config.dflt)).length < (2 : BitVec 8).toNat ∧
      ([link 0xCAFEF00D].map fun i => (i.rst, i.rxFrameActive, i.rxData))
        = ([0xCAFEF00D] : List (Word Config.dflt)).map (fun w => (false, true, w)) ∧
      quietIn.rst = false ∧ quietIn.rxFrameActive = false :=
  ⟨by decide, handling_inv rfl, rfl, rfl, rfl, by decide, by decide, rfl, rfl⟩
theorem witness_BufferSpaceRequestSetsAndSnapshots :
    (at' (handling .handlingBufferSpaceRequest .bufferSpaceRequest) quietIn).nextInputs.rst = false ∧
      (handling .handlingBufferSpaceRequest .bufferSpaceRequest).tx.Inv ∧
      (handling .handlingBufferSpaceRequest .bufferSpaceRequest).rx.state = .handlingBufferSpaceRequest ∧
      (handling .handlingBufferSpaceRequest .bufferSpaceRequest).rx.asmBusy = false := ⟨rfl, r0_inv.tx, rfl, rfl⟩
theorem witness_ReadRequestLoadsTheSlotAndSubmits :
    (at' (handling .handlingReadRequest (.readRequest 3 100)) quietIn).nextInputs.rst = false ∧
      (handling .handlingReadRequest (.readRequest 3 100)).tx.Inv ∧
      (handling .handlingReadRequest (.readRequest 3 100)).rx.state = .handlingReadRequest ∧
      (handling .handlingReadRequest (.readRequest 3 100)).rx.asmBusy = false := ⟨rfl, r0_inv.tx, rfl, rfl⟩
/-- Each of the four states. -/
theorem witness_NonWriteHandlingLastsOneTick :
    quietIn.rst = false ∧ (handling .handlingSetTime (.setTime 7)).Inv ∧ (handling .handlingReset (.reset 0)).Inv ∧
      (handling .handlingBufferSpaceRequest .bufferSpaceRequest).Inv ∧
      (handling .handlingReadRequest (.readRequest 3 100)).Inv :=
  ⟨rfl, handling_inv rfl, handling_inv rfl, handling_inv rfl, handling_inv rfl⟩
theorem witness_ReceiveNeverReadsTheReplyProcess :
    r0.rx = (emitting .echo .echoReply 0).rx ∧ Ticks r0 (link 0) 0 ∧ Ticks (emitting .echo .echoReply 0) (link 0) 0 :=
  ⟨rfl, ⟨_, _, rfl⟩, _, _, rfl⟩
theorem witness_AtMostOneReceiveOutputPerTick : r0.Inv ∧ Ticks r0 (link 6) 0 := ⟨r0_inv, _, _, rfl⟩

/-! The outbound packets. -/

theorem witness_ChosenReplyIsCaptured :
    (at' (pendingReplies true true true) quietIn).nextInputs.rst = false ∧ (pendingReplies true true true).rx.Inv ∧
      (pendingReplies true true true).tx.state = .idle := ⟨rfl, r0_inv.rx, rfl⟩
/-- The first word and the last word of a reply of four. -/
theorem witness_ReplyStateEmitsOneWord :
    ∀ idx, idx = 0 ∨ idx = 3 →
      (at' (emitting .read (.readReply 500 0xABCD) idx) quietIn).nextInputs.rst = false ∧
      (emitting .read (.readReply 500 0xABCD) idx).rx.Inv ∧
      (emitting .read (.readReply 500 0xABCD) idx).tx.state ≠ .idle ∧ idx < Config.dflt.lenOut .readReply := by
  rintro idx (rfl | rfl) <;> exact ⟨rfl, r0_inv.rx, by decide, by decide⟩
/-- Each clause: P3, ticks 12, 14 and 16, and a tick with a read still pending. -/
theorem witness_IdleTickChoosesByPriority :
    quietIn.rst = false ∧ quietIn.ioStatusPending = false ∧
      (∀ echo bs rr, (pendingReplies echo bs rr).rx.Inv ∧ (pendingReplies echo bs rr).tx.state = .idle ∧
        (pendingReplies echo bs rr).flow.echoReq = echo ∧ (pendingReplies echo bs rr).flow.bsReq = bs ∧
        (pendingReplies echo bs rr).flow.rr.pending = rr) ∧
      ({ quietIn with ioStatusPending := true } : Inputs Config.dflt).ioStatusPending = true :=
  ⟨rfl, rfl, fun _ _ _ => ⟨r0_inv.rx, rfl, rfl, rfl, rfl⟩, rfl⟩
/-- Each status of R171, both error flags included (P7). -/
theorem witness_ResolvedReadGetsItsOutcomeReply :
    (pendingReplies false false true).rx.Inv ∧ ∀ timedOut overflowed : Bool,
      ({ quietIn with ioStatusTimedOut := timedOut, ioStatusOverflowed := overflowed } : Inputs Config.dflt).rst
        = false ∧
      Claims.choosesRead (pendingReplies false false true)
        { quietIn with ioStatusTimedOut := timedOut, ioStatusOverflowed := overflowed } = true :=
  ⟨r0_inv.rx, fun _ _ => ⟨rfl, rfl⟩⟩
/-- P1, ticks 8 to 11. -/
theorem witness_ReplyIsSentWholeAndInOrder :
    Config.dflt.wellFormed = true ∧ (emitting .read (.readReply 500 0xABCD) 0).Inv ∧
      (emitting .read (.readReply 500 0xABCD) 0).tx.state ≠ .idle ∧
      (emitting .read (.readReply 500 0xABCD) 0).tx.emPkt = some (.readReply 500 0xABCD) ∧
      (emitting .read (.readReply 500 0xABCD) 0).tx.emIdx = 0 ∧
      (∀ x ∈ List.replicate 4 (quietIn, dr 0), x.1.rst = false) ∧
      (List.replicate 4 (quietIn, dr 0)).length = Config.dflt.lenOut .readReply :=
  ⟨by decide, emitting_inv ⟨500, 0xABCD, rfl⟩ (by decide), by decide, rfl, rfl, by decide, by decide⟩
theorem witness_RepliesAreSeparatedByAGap :
    ∃ e' out e'' out', engineTick Config.dflt (emitting .echo .echoReply 0) quietIn (dr 0) = .ok (e', out) ∧
      engineTick Config.dflt e' quietIn (dr 1) = .ok (e'', out') ∧ out.tx.txLastWord = true :=
  ⟨_, _, _, _, rfl, rfl, by decide⟩
/-- P3, ticks 12 to 16. -/
theorem witness_PriorityOrderOfThreePendingReplies :
    Config.dflt.wellFormed = true ∧ (pendingReplies true true true).Inv ∧
      (pendingReplies true true true).rx.state = .idle ∧ (pendingReplies true true true).rx.asmBusy = false ∧
      (pendingReplies true true true).tx.state = .idle ∧ (pendingReplies true true true).flow.echoReq = true ∧
      (pendingReplies true true true).flow.bsReq = true ∧ (pendingReplies true true true).flow.rr.pending = true ∧
      [(quietIn, dr 1)].length = Config.dflt.lenOut .echoReply ∧
      [(quietIn, dr 3)].length = Config.dflt.lenOut .bufferSpaceReply ∧
      (∀ x ∈ (quietIn, dr 0) :: [(quietIn, dr 1)] ++ (quietIn, dr 2) :: [(quietIn, dr 3)] ++ [(quietIn, dr 4)],
        x.1.rst = false ∧ x.1.rxFrameActive = false) ∧ quietIn.ioStatusPending = false :=
  ⟨by decide, pendingReplies_inv .., rfl, rfl, rfl, rfl, rfl, rfl, by decide, by decide, by decide, rfl⟩
theorem witness_NoReplyIsChosenDuringEmission :
    quietIn.rst = false ∧ ({ emitting .echo .echoReply 0 with
        flow := (pendingReplies true true true).flow } : Engine Config.dflt).tx.state ≠ .idle ∧
      Ticks { emitting .echo .echoReply 0 with flow := (pendingReplies true true true).flow } quietIn 0 ∧
      Claims.handlesFullReset { emitting .echo .echoReply 0 with flow := (pendingReplies true true true).flow } = false ∧
      rxCurrent (emitting .echo .echoReply 0).rx quietIn ≠ some .echoRequest :=
  ⟨rfl, by decide, ⟨_, _, rfl⟩, by decide, by decide⟩
/-- V-E1, with the padding of V-E3. -/
theorem witness_EchoRequestIsAnswered :
    Config.dflt.wellFormed = true ∧ r0.Inv ∧ r0.quiescent = true ∧ r0.rx.framePrev = false ∧
      (link 0xDEADBE00).rst = false ∧ (link 0xDEADBE00).rxFrameActive = true ∧
      headerCode Config.dflt (link 0xDEADBE00).rxData = Config.dflt.codeIn .echoRequest ∧
      (∀ x ∈ (quietIn, dr 1) :: [(quietIn, dr 2)], x.1.rst = false ∧ x.1.rxFrameActive = false) ∧
      [(quietIn, dr 2)].length = Config.dflt.lenOut .echoReply :=
  ⟨by decide, r0_inv, by decide, rfl, rfl, rfl, by decide, by decide, by decide⟩
/-- V-B1. -/
theorem witness_BufferSpaceRequestIsAnswered :
    Config.dflt.wellFormed = true ∧ r0.Inv ∧ r0.quiescent = true ∧ r0.rx.framePrev = false ∧
      (link 0x00000004).rst = false ∧ (link 0x00000004).rxFrameActive = true ∧
      headerCode Config.dflt (link 0x00000004).rxData = Config.dflt.codeIn .bufferSpaceRequest ∧
      (∀ x ∈ (quietIn, dr 1) :: (quietIn, dr 2) :: [(quietIn, dr 3)], x.1.rst = false ∧ x.1.rxFrameActive = false) ∧
      [(quietIn, dr 3)].length = Config.dflt.lenOut .bufferSpaceReply :=
  ⟨by decide, r0_inv, by decide, rfl, rfl, rfl, by decide, by decide, by decide⟩

/-! The shared registers. -/

/-- A snapshot tick, and a tick of another state. -/
theorem witness_BufferSpaceChangesOnlyBySnapshot :
    quietIn.rst = false ∧ Ticks (handling .handlingBufferSpaceRequest .bufferSpaceRequest) quietIn 0 ∧
      Ticks (pendingReplies true true true) quietIn 0 := ⟨rfl, ⟨_, _, rfl⟩, _, _, rfl⟩
theorem witness_BufferSpaceLatchUpdate : quietIn.rst = false ∧ Ticks (pendingReplies false true true) quietIn 0 :=
  ⟨rfl, _, _, rfl⟩
/-- The three clauses: a load, a full reset, and neither. -/
theorem witness_ReadSlotUpdate :
    (quietIn.rst = false ∧ Ticks (handling .handlingReadRequest (.readRequest 9 200)) quietIn 0 ∧
      (handling .handlingReadRequest (.readRequest 9 200)).rx.state = .handlingReadRequest ∧
      (handling .handlingReadRequest (.readRequest 9 200)).rx.pkt = some (.readRequest 9 200)) ∧
    (Ticks (handling .handlingReset (.reset 0)) quietIn 0 ∧
      Claims.handlesFullReset (handling .handlingReset (.reset 0)) = true) ∧
    (Ticks (pendingReplies false false true) quietIn 0 ∧ (pendingReplies false false true).rx.state ≠ .handlingReadRequest ∧
      Claims.handlesFullReset (pendingReplies false false true) = false) :=
  ⟨⟨rfl, ⟨_, _, rfl⟩, rfl, rfl⟩, ⟨⟨_, _, rfl⟩, by decide⟩, ⟨_, _, rfl⟩, by decide, by decide⟩
theorem witness_EchoPulseLastsOneTick : (link 0).rst = false ∧ Ticks r0 (link 0) 0 := ⟨rfl, _, _, rfl⟩
/-- Two different draws with no error flag, one draw with both, and a tick that drives a word. -/
theorem witness_DrawsReachOnlyUndrivenLines :
    (quietIn.rst = false ∧
      (quietIn.ioStatusTimedOut = true → quietIn.ioStatusOverflowed = true →
        (dr 0).choosesTimeout = (dr 1).choosesTimeout) ∧
      Ticks (pendingReplies false false true) quietIn 0 ∧ Ticks (pendingReplies false false true) quietIn 1) ∧
    (∃ e' out, engineTick Config.dflt (pendingReplies false false true)
      { quietIn with ioStatusTimedOut := true, ioStatusOverflowed := true }
      { dr 0 with choosesTimeout := true } = .ok (e', out)) ∧
    ((emitting .echo .echoReply 0).tx.Inv ∧ ∃ e' out,
      engineTick Config.dflt (emitting .echo .echoReply 0) quietIn (dr 0) = .ok (e', out) ∧
      out.tx.txFrameActive = true) :=
  ⟨⟨rfl, (fun h => by cases h), ⟨_, _, rfl⟩, _, _, rfl⟩, ⟨_, _, rfl⟩, (emitting_inv rfl (by decide) : (emitting .echo .echoReply 0).Inv).tx, _, _, rfl, rfl⟩
/-- Each clause's premise. -/
theorem witness_UnsampledInputsAreIgnored :
    quietIn.rxFrameActive = false ∧ r0.rx.state ≠ .handlingBufferSpaceRequest ∧ r0.flow.rr.pending = false ∧
      ({ quietIn with ioStatusPending := true } : Inputs Config.dflt).ioStatusPending = true ∧
      ({ quietIn with ioStatusTimedOut := true } : Inputs Config.dflt).ioStatusTimedOut = true :=
  ⟨rfl, by decide, rfl, rfl, rfl⟩

/-! The whole machine and the step. -/

theorem witness_EveryTickHasASuccessorWithTheInvariants :
    Config.dflt.wellFormed = true ∧ r0.Inv ∧ (collecting 2 []).Inv ∧ (handling .handlingWrite (.write 1 2 3 255 4)).Inv ∧
      (emitting .read (.readReply 500 0xABCD) 3).Inv :=
  ⟨by decide, r0_inv, collecting_inv _ (by omega) (by omega), handling_inv rfl,
    emitting_inv ⟨500, 0xABCD, rfl⟩ (by decide)⟩
theorem witness_StepKeepsTheInvariants : (at' (emitting .echo .echoReply 0) quietIn).eng.Inv :=
  emitting_inv rfl (by decide)
theorem witness_RstTickResetsEverything : (at' (collecting 1 []) { quietIn with rst := true }).nextInputs.rst = true := rfl
theorem witness_QuiescentStateStaysQuiescent :
    quietIn.rst = false ∧ r0.Inv ∧ r0.quiescent = true ∧ quietIn.rxFrameActive = false :=
  ⟨rfl, r0_inv, by decide, rfl⟩
/-- One tick that raises each condition, and one that does so while the reply side has latches to clear. -/
theorem witness_ConditionLeavesTheReceiveProcessReady :
    (r0.Inv ∧ ∃ e' out, engineTick Config.dflt r0 (link 6) (dr 0) = .ok (e', out) ∧ out.rx.unknownPacketType = true) ∧
    ((collecting 1 []).Inv ∧ ∃ e' out, engineTick Config.dflt (collecting 1 []) quietIn (dr 0) = .ok (e', out) ∧
      out.rx.packetTruncated = true) ∧
    ((pendingReplies false true true).Inv ∧ ∃ e' out,
      engineTick Config.dflt (pendingReplies false true true) (link 6) (dr 0) = .ok (e', out) ∧
      out.rx.unknownPacketType = true ∧ e'.flow.bsReq = false) :=
  ⟨⟨r0_inv, _, _, rfl, by decide⟩, ⟨collecting_inv _ (by omega) (by omega), _, _, rfl, by decide⟩,
    pendingReplies_inv .., _, _, rfl, by decide, by decide⟩
/-- A packet of the receive process, and a packet of the reply process alone. -/
theorem witness_StepRunsTheCurrentInstruction :
    (at' r0 (link 0)).current = some .echoRequest ∧
      (at' (emitting .echo .echoReply 0) quietIn).current = some .echoReply := by decide
theorem witness_OneTickRunsBothProcesses :
    (at' (emitting .echo .echoReply 0) (link 0)).nextInputs.rst = false ∧
      rxCurrent (emitting .echo .echoReply 0).rx (link 0) = some .echoRequest ∧
      txCurrent (emitting .echo .echoReply 0).tx r0.flow (link 0) (dr 1) = some .echoReply :=
  ⟨rfl, by decide, rfl⟩
/-- V-S1, tick 2. -/
theorem witness_CollectedWordsAreFetched :
    (at' (collecting 2 [0x66778801, 0x22334455]) (link 0x00000011)).nextInputs.rst = false ∧
      (collecting 2 [0x66778801, 0x22334455]).rx.state = .idle ∧
      (collecting 2 [0x66778801, 0x22334455]).rx.asmBusy = true ∧ (link 0x00000011).rxFrameActive = true ∧
      (collecting 2 [0x66778801, 0x22334455]).rx.asmType = .setTime ∧ 2 + 1 = Config.dflt.lenIn .setTime ∧
      decodeInWords Config.dflt
        ((collecting 2 [0x66778801, 0x22334455]).rx.asmBuf.toList.take 2 ++ [(link 0x00000011).rxData])
        = .ok (.setTime 0x1122334455667788, []) := ⟨rfl, rfl, rfl, rfl, rfl, by decide, by decide⟩
theorem witness_PlacedWordRunsNext : decodeTableWord 96 0x305 = some (.readRequest 3 0) := by decide

/-! The premises of 70_reset_and_hazards.md R274. -/

/-- The outputs of a tick that submits a read. -/
def readOut : Outputs Config.dflt := { Outputs.defaults (dr 0) with rx := { RxPorts.defaults (dr 0) with ioCmd := .read } }

/-- The inputs of a tick that shows this status. -/
def status (pending timedOut overflowed : Bool) : Inputs Config.dflt :=
  { quietIn with ioStatusPending := pending, ioStatusTimedOut := timedOut, ioStatusOverflowed := overflowed }

/-- A read submitted at tick 0 that is pending with any flags at tick 1 (E4) and has timed out at ticks 2 and 3
meets E2. -/
theorem test_e2_meets :
    ReadPendingNext [quietIn, status true false true, status false true false, status false true false] [readOut] := by
  intro n
  cases n with
  | zero =>
    refine ⟨some 2, (true, false), by simp, fun m inp hf hi => ?_⟩
    match m, hf.1, hi with
    | 1, _, hi | 2, _, hi | 3, _, hi => obtain rfl := Option.some.inj hi; decide
  | succ n =>
    refine ⟨none, (false, false), by simp, fun m inp hf _ => ?_⟩
    obtain ⟨out, ho, -⟩ := hf.2.1
    cases ho

/-- Pending 1, 0 and 1 again with no new read breaks E2. -/
theorem test_e2_pending_again :
    ¬ ReadPendingNext [quietIn, status true false false, status false false false, status true false false]
      [readOut] := by
  intro h
  have hf : FollowsRead [readOut] 0 2 := ⟨by decide, ⟨_, rfl, by decide⟩, fun k o h₁ _ ho => by
    rw [List.getElem?_eq_none (Nat.succ_le_of_lt h₁)] at ho; cases ho⟩
  have hf' : FollowsRead [readOut] 0 3 := ⟨by decide, ⟨_, rfl, by decide⟩, fun k o h₁ _ ho => by
    rw [List.getElem?_eq_none (Nat.succ_le_of_lt h₁)] at ho; cases ho⟩
  exact absurd (h.stays_resolved hf hf' (by decide) rfl rfl rfl).1 (by decide)

end Sys2Proof.Tests
end

section
/-! The invariants of 10_state.md R43: they hold of the reset values (R45), and each process keeps its part in every
tick, so the engine's tick and the host's step keep them. -/

namespace Sys2Proof.Machine
section
variable {c : Config}

/-! ### Lengths -/

/-- A bit string that is not empty has at least one word (00_scope.md R10). -/
theorem one_le_wordsFor (hws : 1 ≤ c.ws) {n : Nat} (hn : 1 ≤ n) : 1 ≤ c.wordsFor n := by
  have h := le_wordsFor_mul hws n
  by_contra hlt
  rw [Nat.lt_one_iff.mp (not_le.mp hlt)] at h
  omega

/-- A configuration that meets 00_scope.md R9 has words and headers of at least one bit (R9 (d)). -/
theorem one_le_ws_and_h (hc : c.wellFormed = true) : 1 ≤ c.ws ∧ 1 ≤ c.h := by
  simp only [Config.wellFormed, Bool.and_eq_true, List.all_eq_true, decide_eq_true_eq] at hc
  obtain ⟨⟨-, hw⟩, -⟩ := hc
  exact ⟨hw c.ws (by simp [Config.widths]), hw c.h (by simp [Config.widths])⟩

/-- Every inbound packet has its header word. -/
theorem one_le_lenIn (hc : c.wellFormed = true) (T : InType) : 1 ≤ c.lenIn T :=
  one_le_wordsFor (one_le_ws_and_h hc).1 ((one_le_ws_and_h hc).2.trans (Nat.le_add_right _ _))

/-- Every outbound packet has its header word. -/
theorem one_le_lenOut (hc : c.wellFormed = true) (T : OutType) : 1 ≤ c.lenOut T :=
  one_le_wordsFor (one_le_ws_and_h hc).1 ((one_le_ws_and_h hc).2.trans (Nat.le_add_right _ _))

/-! ### What the assembler leaves and what it moves to -/

/-- The assembler leaves the accumulator alone (10_state.md R29, R30), and `frame_prev` follows the frame
(40_packet_assembler.md R101). -/
theorem assemble_frame (s : RxRegs c) (inp : Inputs c) :
    (assemble s inp).regs.accCnt = s.accCnt ∧ (assemble s inp).regs.accWords = s.accWords ∧
      (assemble s inp).regs.framePrev = inp.rxFrameActive := by
  rcases assemble_cases (rfl : assemble s inp = _) with
    ⟨-, ha⟩ | ⟨-, -, hf, -, ⟨-, ha⟩ | ⟨T, -, -, ha⟩ | ⟨T, -, -, ha⟩⟩ | ⟨-, hf, -, ha⟩ | ⟨-, hf, -, ha⟩ |
      ⟨-, hf, ha⟩ <;>
    rw [ha] <;> refine ⟨rfl, rfl, ?_⟩
  · rfl
  all_goals exact hf.symm

@[simp] theorem assemble_framePrev (s : RxRegs c) (inp : Inputs c) :
    (assemble s inp).regs.framePrev = inp.rxFrameActive := by
  obtain ⟨-, -, hf⟩ := assemble_frame s inp
  exact hf

/-- A packet completes only in a tick with the frame active (40_packet_assembler.md R103, R106). -/
theorem frameActive_of_done {s : RxRegs c} {inp : Inputs c} {p : InPkt c}
    (h : (assemble s inp).done = some p) : inp.rxFrameActive = true := by
  rcases assemble_cases (rfl : assemble s inp = _) with
    ⟨-, ha⟩ | ⟨-, -, hf, -⟩ | ⟨-, hf, -⟩ | ⟨-, hf, -⟩ | ⟨-, -, ha⟩
  · rw [ha] at h; cases h
  · exact hf
  · exact hf
  · exact hf
  · rw [ha] at h; cases h

/-- I1 after the assembler: a packet still in progress has its next word inside its type's length, at a tick
with the frame active. -/
theorem assemble_collecting (hc : c.wellFormed = true) {s : RxRegs c} (hs : s.Inv) (inp : Inputs c)
    (hb : (assemble s inp).regs.asmBusy = true) :
    inp.rxFrameActive = true ∧ 1 ≤ (assemble s inp).regs.asmIdx ∧
      (assemble s inp).regs.asmIdx < c.lenIn (assemble s inp).regs.asmType := by
  rcases assemble_cases (rfl : assemble s inp = _) with
    ⟨hb', ha⟩ | ⟨hb', -, hf, -, ⟨-, ha⟩ | ⟨T, -, -, ha⟩ | ⟨T, -, hT, ha⟩⟩ | ⟨-, -, -, ha⟩ | ⟨hb', hf, hT, ha⟩ |
      ⟨-, -, ha⟩ <;>
    rw [ha] at hb ⊢
  · exact absurd (hb'.symm.trans hb) (by decide)
  · exact absurd (hb'.symm.trans hb) (by decide)
  · cases hb
  · exact ⟨hf, le_refl 1, lt_of_le_of_ne (one_le_lenIn hc T) hT.symm⟩
  · cases hb
  · obtain ⟨-, -, -, hlt⟩ := hs.collecting hb'
    exact ⟨hf, Nat.le_add_left 1 _, lt_of_le_of_ne hlt hT⟩
  · cases hb

/-- In a handling state the assembler only follows the frame (I7; 40_packet_assembler.md R110). -/
theorem assemble_handling {s : RxRegs c} (hs : s.Inv) (hi : s.state ≠ .idle) (inp : Inputs c) :
    assemble s inp = asmQuiet s inp.rxFrameActive :=
  assemble_quiet (hs.noEdge hi).2 (.inl hi)

/-! ### The invariants of a receive process, by the state it is in -/

/-- In `Idle` the invariants are I1 and a clear accumulator (I2). -/
theorem RxRegs.Inv.of_idle {s : RxRegs c} (hi : s.state = .idle)
    (hb : s.asmBusy = true → s.framePrev = true ∧ 1 ≤ s.asmIdx ∧ s.asmIdx < c.lenIn s.asmType)
    (hcnt : s.accCnt = 0) (hw : s.accWords = Vector.replicate c.nmax 0) : s.Inv where
  collecting h := ⟨hi, hb h⟩
  clear _ := ⟨hcnt, hw⟩
  accumulating _ _ _ _ _ h := by rw [hi] at h; cases h
  handling _ h := by rw [hi] at h; cases h
  noEdge h := absurd hi h

/-- A handling state is entered with its packet in `pkt`, inside a frame, with a clear accumulator. -/
theorem RxRegs.Inv.of_entered {s : RxRegs c} {p : InPkt c} (hp : s.pkt = some p)
    (hS : s.state.handles = some p.type) (hf : s.framePrev = true) (hb : s.asmBusy = false)
    (hcnt : s.accCnt = 0) (hw : s.accWords = Vector.replicate c.nmax 0) : s.Inv where
  collecting h := by rw [hb] at h; cases h
  clear _ := ⟨hcnt, hw⟩
  accumulating _ _ _ k _ _ _ := by simp [hcnt, hw, BitVec.le_def]
  handling T h := ⟨p, hp, Option.some.inj (hS.symm.trans h)⟩
  noEdge _ := ⟨hf, hb⟩

/-- A tick that goes (back) to `Idle` over the assembler's writes, with a clear accumulator, keeps the
invariants. -/
theorem inv_of_goto_idle (hc : c.wellFormed = true) {s : RxRegs c} (hs : s.Inv) (inp : Inputs c)
    {cnt : BitVec c.wExtra} {words : Vector (Word c) c.nmax} (hcnt : cnt = 0) (hw : words = Vector.replicate c.nmax 0) :
    ({ (assemble s inp).regs with state := .idle, accCnt := cnt, accWords := words } : RxRegs c).Inv := by
  refine .of_idle rfl (fun hb => ?_) hcnt hw
  rw [assemble_framePrev]
  exact assemble_collecting hc hs inp hb

/-- Outside `HandlingWrite` the assembler leaves a clear accumulator (I2). -/
theorem assemble_clear {s : RxRegs c} (hs : s.Inv) (hi : s.state ≠ .handlingWrite) (inp : Inputs c) :
    (assemble s inp).regs.accCnt = 0 ∧ (assemble s inp).regs.accWords = Vector.replicate c.nmax 0 := by
  obtain ⟨hcnt, hw, -⟩ := assemble_frame s inp
  rw [hcnt, hw]
  exact hs.clear hi

/-- The `Idle` tick that completes a packet keeps the invariants: the handling state it enters, if any, handles
that packet (42_receive_dispatch.md R140). -/
theorem idle_rxPacket_inv (hc : c.wellFormed = true) {s : RxRegs c} (hs : s.Inv) (hi : s.state = .idle)
    {inp : Inputs c} {p : InPkt c} (hd : (assemble s inp).done = some p) (dr : Draws c) :
    (rxPacket p ⟨s, assemble s inp, inp, dr⟩).regs.Inv := by
  obtain ⟨hcnt, hw⟩ := assemble_clear hs (by simp [hi]) inp
  have enters (S : RxState) (hS : S.handles = some p.type) :
      ({ (assemble s inp).regs with state := S } : RxRegs c).Inv := by
    have hdone := assemble_of_done hd
    refine .of_entered (by rw [hdone]; rfl) hS ?_ (by rw [hdone]; rfl) hcnt hw
    rw [assemble_framePrev]
    exact frameActive_of_done hd
  rw [rxPacket_idle hi p]
  cases hT : p.type with
  | echoRequest => exact inv_of_goto_idle hc hs inp hcnt hw
  | _ => exact enters _ (by rw [hT]; rfl)

/-- A counter below another value of its width does not wrap when it counts on. -/
theorem toNat_add_one_of_lt {w : Nat} {x y : BitVec w} (h : x < y) : (x + 1).toNat = x.toNat + 1 := by
  have hx : x.toNat + 1 < 2 ^ w := lt_of_le_of_lt (BitVec.lt_def.mp h) y.isLt
  simp only [BitVec.ofNat_eq_ofNat, BitVec.toNat_add, BitVec.toNat_ofNat, Nat.add_mod_mod, Nat.mod_eq_of_lt hx]

/-- A `HandlingWrite` tick that consumes a payload word keeps I3: the count stays within the declared one and
the words from it on stay 0 (41_write_accumulator.md R123). -/
theorem inv_of_accPush {s : RxRegs c} (hs : s.Inv) (hi : s.state = .handlingWrite) {inp : Inputs c}
    (hf : inp.rxFrameActive = true) {channel : BitVec c.wCh} {timestamp : BitVec c.wWts} {address : BitVec c.wAddr}
    {k : BitVec c.wExtra} {shortData : BitVec c.wShort}
    (hp : s.pkt = some (.write channel timestamp address k shortData)) (hlt : s.accCnt < k) (d : Word c) :
    ({ s with
        state := .handlingWrite, framePrev := inp.rxFrameActive
        accWords := s.accWords.setIfInBounds s.accCnt.toNat d, accCnt := s.accCnt + 1 } : RxRegs c).Inv := by
  have hb := (hs.noEdge (by simp [hi])).2
  have hsucc := toNat_add_one_of_lt hlt
  refine ⟨fun h => ?_, fun h => absurd rfl h, fun _ _ _ k' _ _ hp' => ?_, fun T hT => ⟨_, hp, Option.some.inj hT⟩,
    fun _ => ⟨hf, hb⟩⟩
  · rw [hb] at h; cases h
  · obtain ⟨-, -, -, rfl, -⟩ := InPkt.write.inj (Option.some.inj (hp.symm.trans hp'))
    refine ⟨?_, fun j hj hle => ?_⟩
    · rw [BitVec.le_def, hsucc]
      exact hlt
    · rw [hsucc] at hle
      rw [Vector.getElem_setIfInBounds_ne (by omega) (by omega)]
      exact (hs.accumulating _ _ _ _ _ hi hp).2 j hj (by omega)

/-- A `HandlingWrite` tick keeps the invariants (41_write_accumulator.md R123 to R125). -/
theorem handleWrite_inv (hc : c.wellFormed = true) {s : RxRegs c} (hs : s.Inv) (hi : s.state = .handlingWrite)
    {channel : BitVec c.wCh} {timestamp : BitVec c.wWts} {address : BitVec c.wAddr}
    {k : BitVec c.wExtra} {shortData : BitVec c.wShort}
    (hp : s.pkt = some (.write channel timestamp address k shortData)) (inp : Inputs c) (dr : Draws c) :
    (handleWrite channel timestamp address k shortData ⟨s, assemble s inp, inp, dr⟩).regs.Inv := by
  rcases handleWrite_cases (rfl : handleWrite channel timestamp address k shortData ⟨s, assemble s inp, inp, dr⟩ = _)
    with ⟨hlt, hf, hr⟩ | ⟨-, -, hr⟩ | ⟨-, hr⟩ | ⟨hgt, -⟩
  · rw [hr, assemble_handling hs (by simp [hi])]
    exact inv_of_accPush hs hi hf hp hlt _
  · rw [hr]
    exact inv_of_goto_idle hc hs inp rfl rfl
  · rw [hr]
    exact inv_of_goto_idle hc hs inp rfl rfl
  · exact absurd (hs.accumulating _ _ _ _ _ hi hp).1 (BitVec.not_le.mpr hgt)

@[simp] theorem resetEffect_regs (phy : BitVec Config.wPhy) (t : RxTick c) : (resetEffect phy t).regs = t.asm.regs := by
  unfold resetEffect
  split <;> rfl

/-- Every tick of the receive process keeps its part of R43. -/
theorem receive_inv (hc : c.wellFormed = true) {s : RxRegs c} (hs : s.Inv) {inp : Inputs c} {dr : Draws c}
    {r : RxResult c} (h : receive s inp dr = .ok r) : r.regs.Inv := by
  have back (hi : s.state ≠ .handlingWrite) : ({ (assemble s inp).regs with state := .idle } : RxRegs c).Inv :=
    inv_of_goto_idle hc hs inp (assemble_clear hs hi inp).1 (assemble_clear hs hi inp).2
  obtain ⟨a, rfl, hr⟩ := receive_cases h
  rcases hr with ⟨hi, -, rfl⟩ | ⟨hi, p, hd, rfl⟩ | ⟨hi, v, -, rfl⟩ | ⟨hi, phy, -, rfl⟩ |
    ⟨hi, channel, timestamp, address, k, shortData, hp, rfl⟩ | ⟨hi, rfl⟩ | ⟨hi, channel, timeout, -, rfl⟩ |
    ⟨-, -, hne, -⟩
  · exact back (by simp [hi])
  · exact idle_rxPacket_inv hc hs hi hd dr
  · exact back (by simp [hi])
  · rw [goto_regs, resetEffect_regs]
    exact back (by simp [hi])
  · exact handleWrite_inv hc hs hi hp inp dr
  · exact back (by simp [hi])
  · exact back (by simp [hi])
  · exact absurd hne hs.pkt_of_state

/-! ### The reply process -/

/-- A reply's state sends it, from its first word on. -/
theorem TxRegs.Inv.of_chosen (hc : c.wellFormed = true) {S : TxState} {q : OutPkt c} (hS : S.sends q) :
    ({ state := S, emPkt := some q, emIdx := 0 } : TxRegs c).Inv where
  emitting _ := ⟨q, rfl, hS, one_le_lenOut hc q.type⟩
  waiting _ := rfl

/-- The state of a `ReadReplyNoEvent` sends it: its one bit is 1 or 0. -/
theorem noEventState_sends (overflow : BitVec Config.wOvf) :
    (noEventState overflow).sends (.readReplyNoEvent overflow : OutPkt c) := by
  unfold noEventState
  split
  case isTrue h => rw [h]; rfl
  case isFalse h =>
    rw [(BitVec.eq_zero_or_eq_one overflow).resolve_right h]
    rfl

/-- The tick that chooses a reply enters the state that sends it (43_reply_generation.md R171 to R176). -/
theorem idle_txPacket_inv (hc : c.wellFormed = true) {t : TxTick c} (hi : t.s.state = .idle) (q : OutPkt c) :
    (txPacket q t).regs.Inv := by
  rw [txPacket_idle hi q]
  cases q with
  | echoReply => exact .of_chosen hc rfl
  | bufferSpaceReply space => exact .of_chosen hc ⟨space, rfl⟩
  | readReplyNoEvent overflow => exact .of_chosen hc (noEventState_sends overflow)
  | readReply timestamp data => exact .of_chosen hc ⟨timestamp, data, rfl⟩

/-- Every tick of the reply process keeps its part of R43. -/
theorem reply_inv (hc : c.wellFormed = true) {s : TxRegs c} (hs : s.Inv) {flow : FlowRegs c} {inp : Inputs c}
    {dr : Draws c} {t : TxResult c} (h : reply s flow inp dr = .ok t) : t.regs.Inv := by
  rcases reply_cases h with ⟨hi, -, rfl⟩ | ⟨hi, q, -, rfl⟩ | ⟨-, q, -, -, rfl⟩ | ⟨hi, q, hq, hlt, rfl⟩ |
    ⟨hi, q, hq, hle, -⟩
  · exact ⟨fun h => absurd rfl h, fun _ => rfl⟩
  · exact idle_txPacket_inv hc hi q
  · exact ⟨fun h => absurd rfl h, fun _ => rfl⟩
  · obtain ⟨q', hq', hsends, -⟩ := hs.emitting hi
    obtain rfl := Option.some.inj (hq.symm.trans hq')
    exact ⟨fun _ => ⟨q, hq, hsends, hlt⟩, fun h => absurd h hi⟩
  · obtain ⟨q', hq', -, hlt⟩ := hs.emitting hi
    obtain rfl := Option.some.inj (hq.symm.trans hq')
    exact absurd hle (not_le.mpr hlt)

/-! ### The engine -/

/-- The reset values have the invariants, whatever the two unspecified registers hold (10_state.md R45). -/
theorem resetWith_inv (asmType : InType) (asmBuf : Vector (Word c) c.lmaxIn) :
    (Engine.resetWith asmType asmBuf : Engine c).Inv where
  rx := .of_idle rfl (fun h => by cases h) rfl rfl
  tx := ⟨fun h => absurd rfl h, fun _ => rfl⟩

/-- At a configuration that meets 00_scope.md R9, a tick of a state with the invariants answers a state with
them: both processes answer, and each keeps its part; an `rst` tick answers the reset values. -/
theorem engineTick_inv (hc : c.wellFormed = true) {e : Engine c} (he : e.Inv) (inp : Inputs c) (dr : Draws c) :
    ∃ e' out, engineTick c e inp dr = .ok (e', out) ∧ e'.Inv := by
  cases hrst : inp.rst with
  | true => exact ⟨.resetTick dr, .defaults dr, by simp [engineTick, tickWith, hrst], resetWith_inv _ _⟩
  | false =>
    obtain ⟨r, hr⟩ := receive_ok he.rx inp dr
    obtain ⟨t, ht⟩ := reply_ok he.tx e.flow inp dr
    exact ⟨_, _, engineTick_of hrst hr ht, receive_inv hc he.rx hr, reply_inv hc he.tx ht⟩

end

/-! ### The host's step -/

/-- Whatever instruction a step runs, it is the engine's one tick (45_tick_and_flow_control.md R215, R216). -/
theorem step_eq_plainTick (s : State) : step s = s.plainTick := by
  unfold step State.current
  cases s.nextInputs.rst with
  | true => rfl
  | false =>
    cases hr : rxCurrent s.eng.rx s.nextInputs with
    | some p => exact (exec_ofIn s p).trans (inboundTick_eq_plainTick hr)
    | none =>
      cases ht : txCurrent s.eng.tx s.eng.flow s.nextInputs s.draws with
      | some q => exact (exec_ofOut s q).trans (outboundTick_eq_plainTick ht)
      | none => rfl

/-- Settles O50: each process keeps its part of R43 in the engine's tick, and a step is that tick. -/
theorem stepKeepsTheInvariants : Obligations.StepKeepsTheInvariants := by
  intro s hs
  obtain ⟨e', out, htick, hinv⟩ := engineTick_inv (by decide) hs s.nextInputs s.draws
  exact ⟨_, by rw [step_eq_plainTick, State.plainTick, htick, commit_ok], hinv⟩

/-- Settles O51: `State.reset` holds the reset values with one choice of the two unspecified registers. -/
theorem invariantsHoldAtReset : Obligations.InvariantsHoldAtReset :=
  ⟨resetWith_inv _ _, fun _ => resetWith_inv⟩

/-- Settles O52: the reset values are those R45 lists, the cleared accumulator word by word. -/
theorem resetValues : Obligations.ResetValues := by
  have hwords (j : Nat) (hj : j < Config.dflt.nmax) : State.reset.eng.rx.accWords[j] = 0 :=
    Vector.getElem_replicate hj
  exact ⟨rfl, rfl, rfl, rfl, rfl, rfl, rfl, hwords, rfl, rfl, rfl, rfl, rfl, rfl, rfl, rfl⟩

end Sys2Proof.Machine
end

section
/-! What a tick samples of its input ports (10_state.md R39; 20_memory.md R58): each process answers alike over
two ticks' inputs that agree in what it reads, and so does the engine's tick. -/

namespace Sys2Proof.Machine

section
variable {c : Config}

/-- The inputs agree in what the receive process samples: the frame, the link word of an active frame
(40_packet_assembler.md R101 to R106), and the buffer space in its handling state (42_receive_dispatch.md R149). -/
structure Inputs.AgreeForReceive (S : RxState) (inp inp' : Inputs c) : Prop where
  frame : inp.rxFrameActive = inp'.rxFrameActive
  word : inp.rxFrameActive = true → inp.rxData = inp'.rxData
  space : S = .handlingBufferSpaceRequest → inp.ioBufferSpace = inp'.ioBufferSpace

/-- The assembler samples the frame, and the link word where the frame is active. -/
theorem assemble_congr (s : RxRegs c) {inp inp' : Inputs c} (hf : inp.rxFrameActive = inp'.rxFrameActive)
    (hd : inp.rxFrameActive = true → inp.rxData = inp'.rxData) : assemble s inp = assemble s inp' := by
  cases h : inp.rxFrameActive with
  | true => simp only [assemble, ← hf, ← hd h]
  | false => simp [assemble, rising, ← hf, h]

/-- A `HandlingWrite` tick samples the frame, and the link word where the frame is active
(41_write_accumulator.md R123, R124). -/
theorem handleWrite_congr {s : RxRegs c} {a : AsmResult c} {inp inp' : Inputs c} {dr : Draws c}
    (hf : inp.rxFrameActive = inp'.rxFrameActive) (hd : inp.rxFrameActive = true → inp.rxData = inp'.rxData)
    (channel : BitVec c.wCh) (timestamp : BitVec c.wWts) (address : BitVec c.wAddr) (k : BitVec c.wExtra)
    (shortData : BitVec c.wShort) :
    handleWrite channel timestamp address k shortData ⟨s, a, inp, dr⟩ =
      handleWrite channel timestamp address k shortData ⟨s, a, inp', dr⟩ := by
  cases h : inp.rxFrameActive with
  | true => simp only [handleWrite, ← hf, ← hd h]; rfl
  | false => simp only [handleWrite, ← hf, h]; rfl

/-- Only Write and BufferSpaceRequest have a rule that samples an input, each in its handling state. -/
theorem rxPacket_congr {s : RxRegs c} {a : AsmResult c} {inp inp' : Inputs c} {dr : Draws c}
    (h : inp.AgreeForReceive s.state inp') (p : InPkt c) :
    rxPacket p ⟨s, a, inp, dr⟩ = rxPacket p ⟨s, a, inp', dr⟩ := by
  cases p with
  | write channel timestamp address k shortData =>
    cases hs : s.state with
    | handlingWrite =>
      simp only [rxPacket, rxWrite, hs]
      exact handleWrite_congr h.frame h.word channel timestamp address k shortData
    | _ => simp only [rxPacket, rxWrite, hs]; rfl
  | bufferSpaceRequest =>
    cases hs : s.state with
    | handlingBufferSpaceRequest =>
      simp only [rxPacket, rxBufferSpaceRequest, hs, h.space hs]
      rfl
    | _ => simp only [rxPacket, rxBufferSpaceRequest, hs]; rfl
  | _ => rfl

/-- The receive process answers alike over inputs that agree in what it samples. -/
theorem receive_congr {s : RxRegs c} {inp inp' : Inputs c} (dr : Draws c) (h : inp.AgreeForReceive s.state inp') :
    receive s inp dr = receive s inp' dr := by
  have hasm := assemble_congr s h.frame h.word
  have hcur : rxCurrent s inp = rxCurrent s inp' := by simp only [rxCurrent, hasm]
  cases hp : rxCurrent s inp with
  | some p => rw [receive_some dr hp, receive_some dr (hcur.symm.trans hp), hasm, rxPacket_congr h]
  | none =>
    rw [receive_none dr hp, receive_none dr (hcur.symm.trans hp), hasm]
    rfl

/-- The reply process samples inputs only for the choice of a reply in `Idle` (43_reply_generation.md R171). -/
theorem reply_congr {s : TxRegs c} {flow : FlowRegs c} {inp inp' : Inputs c} {dr : Draws c}
    (h : s.state = .idle → chooseReply flow inp dr = chooseReply flow inp' dr) :
    reply s flow inp dr = reply s flow inp' dr := by
  have hcur : txCurrent s flow inp dr = txCurrent s flow inp' dr := by
    by_cases hi : s.state = .idle
    · rw [txCurrent_idle hi, txCurrent_idle hi, h hi]
    · rw [txCurrent_emitting hi, txCurrent_emitting hi]
  simp only [reply, hcur]

/-- The choice of a reply samples the read status only where a read is what is left to report, and its outcome
only where the status is resolved (43_reply_generation.md R170, R171). -/
theorem chooseReply_congr {flow : FlowRegs c} {inp inp' : Inputs c} {dr : Draws c}
    (h : flow.echoReq = false → flow.bsReq = false → flow.rr.pending = true →
      inp.ioStatusPending = inp'.ioStatusPending ∧
        (inp.ioStatusPending = false → readReply inp dr = readReply inp' dr)) :
    chooseReply flow inp dr = chooseReply flow inp' dr := by
  unfold chooseReply
  cases he : flow.echoReq with
  | true => rfl
  | false =>
    cases hb : flow.bsReq with
    | true => rfl
    | false =>
      cases hr : flow.rr.pending with
      | false => rfl
      | true =>
        obtain ⟨hpend, hreply⟩ := h he hb hr
        cases hp : inp.ioStatusPending with
        | true => rw [← hpend, hp]; rfl
        | false => rw [← hpend, hp, hreply hp]

/-- The tick answers alike over inputs that agree in `rst` and over which both processes answer alike. -/
theorem engineTick_congr {e : Engine c} {inp inp' : Inputs c} {dr : Draws c} (hrst : inp.rst = inp'.rst)
    (hr : receive e.rx inp dr = receive e.rx inp' dr)
    (ht : reply e.tx e.flow inp dr = reply e.tx e.flow inp' dr) :
    engineTick c e inp dr = engineTick c e inp' dr := by
  rw [engineTick, engineTick, hrst, hr, ht]

/-- The status and the result of a read reach a tick only through the choice of a reply in `Idle`. -/
theorem engineTick_status_congr {e : Engine c} {inp : Inputs c} {dr : Draws c} {p tmo ovf : Bool}
    {ts : BitVec Config.wRts} {x : BitVec c.wRdata}
    (h : e.tx.state = .idle →
      chooseReply e.flow { inp with
        ioStatusPending := p, ioStatusTimedOut := tmo, ioStatusOverflowed := ovf
        ioResultTimestamp := ts, ioResultData := x } dr = chooseReply e.flow inp dr) :
    engineTick c e { inp with
      ioStatusPending := p, ioStatusTimedOut := tmo, ioStatusOverflowed := ovf
      ioResultTimestamp := ts, ioResultData := x } dr = engineTick c e inp dr :=
  engineTick_congr rfl (receive_congr dr ⟨rfl, fun _ => rfl, fun _ => rfl⟩) (reply_congr h)

/-- With an error flag set a resolved read has failed (43_reply_generation.md R171, R177). -/
theorem readOutcome_ne_ok {inp : Inputs c} (dr : Draws c)
    (herr : inp.ioStatusTimedOut = true ∨ inp.ioStatusOverflowed = true) : readOutcome inp dr ≠ .ok := by
  unfold readOutcome
  split
  · split <;> decide
  · decide
  · decide
  · simp_all

/-- With an error flag set the outcome reply carries no result (43_reply_generation.md R174, R175). -/
theorem readReply_congr_of_error {inp inp' : Inputs c} (dr : Draws c)
    (ht : inp.ioStatusTimedOut = inp'.ioStatusTimedOut) (ho : inp.ioStatusOverflowed = inp'.ioStatusOverflowed)
    (herr : inp.ioStatusTimedOut = true ∨ inp.ioStatusOverflowed = true) :
    readReply inp dr = readReply inp' dr := by
  have hout : readOutcome inp dr = readOutcome inp' dr := by simp only [readOutcome, ht, ho]
  unfold readReply
  rw [← hout]
  cases h : readOutcome inp dr with
  | ok => exact absurd h (readOutcome_ne_ok dr herr)
  | _ => rfl

end

/-- Settles O48: the receive process samples the link word of an active frame and the buffer space of its
handling state; the status and the result reach only the choice of a reply, which reads them only as the last
resort, the flags only of a resolved read and the result only of one that did not fail. -/
theorem unsampledInputsAreIgnored : Obligations.UnsampledInputsAreIgnored := by
  intro c e inp dr
  refine ⟨fun d hf => ?_, fun n hs => ?_, fun p tmo ovf ts x hno => ?_, fun tmo ovf ts x hp => ?_,
    fun ts x herr => ?_⟩
  · exact engineTick_congr rfl
      (receive_congr dr ⟨rfl, fun h => absurd (hf.symm.trans h) (by decide), fun _ => rfl⟩) rfl
  · exact engineTick_congr rfl (receive_congr dr ⟨rfl, fun _ => rfl, fun h => absurd h hs⟩) rfl
  · refine engineTick_status_congr fun hi => chooseReply_congr fun he hb hr => ?_
    simp [hi, he, hb, hr] at hno
  · refine engineTick_status_congr fun _ => chooseReply_congr fun _ _ _ => ⟨rfl, fun hn => ?_⟩
    exact absurd (hp.symm.trans hn) (by decide)
  · refine engineTick_status_congr fun _ => chooseReply_congr fun _ _ _ => ⟨rfl, fun _ => ?_⟩
    exact readReply_congr_of_error dr rfl rfl herr

end Sys2Proof.Machine
end

section
/-! The wire encoding of 30_encoding.md: the code maps under 00_scope.md R9, the bit string of a packet and its
fields, the two directions' round trips (R84), and the packet a placed word completes. -/

namespace Sys2Proof
open Sys2Proof.Machine

section
variable {c : Config}

/-! ### Type codes (R72, R73, R81) -/

theorem InType.mem_all (T : InType) : T ∈ InType.all := by cases T <;> decide
theorem OutType.mem_all (T : OutType) : T ∈ OutType.all := by cases T <;> decide

/-- Looking for a code that a code map gives finds the type it is the code of, where the map is injective. -/
theorem find?_code_of_nodup {α : Type} {code : α → Nat} {types : List α} (hn : (types.map code).Nodup) {T : α}
    (hT : T ∈ types) : (types.find? fun T' => decide (code T' = code T)) = some T := by
  cases hf : types.find? fun T' => decide (code T' = code T) with
  | none => simpa using List.find?_eq_none.mp hf T hT
  | some T' =>
    have hcode : code T' = code T := by simpa using List.find?_some hf
    rw [List.inj_on_of_nodup_map hn (List.mem_of_find?_eq_some hf) hT hcode]

/-- R9 (a): a header fits a link word. -/
theorem h_le_ws (hc : c.wellFormed = true) : c.h ≤ c.ws := by
  simp only [Config.wellFormed, Bool.and_eq_true, decide_eq_true_eq] at hc
  obtain ⟨⟨⟨⟨hle, -⟩, -⟩, -⟩, -⟩ := hc
  exact hle

/-- R9 (b): the inbound codes are distinct and fit the header. -/
theorem codesIn_nodup_lt (hc : c.wellFormed = true) :
    (InType.all.map c.codeIn).Nodup ∧ ∀ T, c.codeIn T < 2 ^ c.h := by
  simp only [Config.wellFormed, Bool.and_eq_true, decide_eq_true_eq, List.all_eq_true] at hc
  obtain ⟨⟨⟨⟨-, hn, hlt⟩, -⟩, -⟩, -⟩ := hc
  exact ⟨hn, fun T => hlt _ (List.mem_map_of_mem (f := c.codeIn) T.mem_all)⟩

/-- R9 (c): the outbound codes are distinct and fit the header. -/
theorem codesOut_nodup_lt (hc : c.wellFormed = true) :
    (OutType.all.map c.codeOut).Nodup ∧ ∀ T, c.codeOut T < 2 ^ c.h := by
  simp only [Config.wellFormed, Bool.and_eq_true, decide_eq_true_eq, List.all_eq_true] at hc
  obtain ⟨⟨⟨-, hn, hlt⟩, -⟩, -⟩ := hc
  exact ⟨hn, fun T => hlt _ (List.mem_map_of_mem (f := c.codeOut) T.mem_all)⟩

theorem typeOfCodeIn_codeIn (hc : c.wellFormed = true) (T : InType) : typeOfCodeIn c (c.codeIn T) = some T :=
  find?_code_of_nodup (codesIn_nodup_lt hc).1 T.mem_all

theorem typeOfCodeOut_codeOut (hc : c.wellFormed = true) (T : OutType) :
    typeOfCodeOut c (c.codeOut T) = some T :=
  find?_code_of_nodup (codesOut_nodup_lt hc).1 T.mem_all

theorem typeOfCodeIn_eq_none_iff (code : Nat) : typeOfCodeIn c code = none ↔ ∀ T, c.codeIn T ≠ code := by
  simp [typeOfCodeIn, InType.mem_all]

/-! ### Bit strings and their words (R70, R71, R78) -/

theorem catWidth_fieldsIn (p : InPkt c) : catWidth p.fields = (c.layoutIn p.type).sum := by cases p <;> rfl
theorem catWidth_fieldsOut (q : OutPkt c) : catWidth q.fields = (c.layoutOut q.type).sum := by cases q <;> rfl

/-- An inbound bit string fits the bits of its type. -/
theorem bitStringIn_lt (p : InPkt c) : p.bitString < 2 ^ c.bitsIn p.type := by
  simpa [catWidth_fieldsIn, InPkt.bitString, Config.bitsIn] using
    cat_lt (⟨c.h, BitVec.ofNat c.h (c.codeIn p.type)⟩ :: p.fields)

/-- An outbound bit string fits the bits of its type. -/
theorem bitStringOut_lt (q : OutPkt c) : q.bitString < 2 ^ c.bitsOut q.type := by
  simpa [catWidth_fieldsOut, OutPkt.bitString, Config.bitsOut] using
    cat_lt (⟨c.h, BitVec.ofNat c.h (c.codeOut q.type)⟩ :: q.fields)

/-- A bit string of `n` bits is read back whole from the words of `n` bits. -/
theorem joinWords_splitWords_of_lt (hws : 1 ≤ c.ws) {B n : Nat} (hB : B < 2 ^ n) :
    joinWords (splitWords c.ws B (c.wordsFor n)) = B := by
  rw [joinWords_splitWords]
  exact Nat.mod_eq_of_lt (hB.trans_le (Nat.pow_le_pow_right two_pos (le_wordsFor_mul hws n)))

theorem joinWords_encodeIn (hc : c.wellFormed = true) (p : InPkt c) : joinWords (encodeIn p) = p.bitString :=
  joinWords_splitWords_of_lt (one_le_ws_and_h hc).1 (bitStringIn_lt p)

theorem joinWords_encodeOut (hc : c.wellFormed = true) (q : OutPkt c) : joinWords (encodeOut q) = q.bitString :=
  joinWords_splitWords_of_lt (one_le_ws_and_h hc).1 (bitStringOut_lt q)

@[simp] theorem length_encodeIn (p : InPkt c) : (encodeIn p).length = c.lenIn p.type := length_splitWords ..
@[simp] theorem length_encodeOut (q : OutPkt c) : (encodeOut q).length = c.lenOut q.type := length_splitWords ..

/-- The first word of a list that has one is the first word of any list it begins. -/
theorem headD_append {ws : Nat} {words : List (BitVec ws)} (h : 1 ≤ words.length) (rest : List (BitVec ws))
    (d : BitVec ws) : (words ++ rest).headD d = words.headD d := by
  cases words with
  | nil => cases h
  | cons w words => rfl

/-! ### Fields (R75, R76, R80) -/

/-- Words that join to the bit string of an inbound packet hold its fields. -/
theorem decodeIn_of_joinWords {p : InPkt c} {words : List (Word c)} (h : joinWords words = p.bitString) :
    decodeIn c p.type words = p := by
  cases p with
  | echoRequest | bufferSpaceRequest => rfl
  | setTime timestamp | reset phy =>
    simp only [InPkt.type, decodeIn, h, InPkt.setTime.injEq, InPkt.reset.injEq]
    exact fieldAt_cat [_] _ [] (by simp)
  | write channel timestamp address extraWordCount shortData =>
    simp only [InPkt.type, decodeIn, h, InPkt.write.injEq]
    exact ⟨fieldAt_cat [_] _ [_, _, _, _] (by simp), fieldAt_cat [_, _] _ [_, _, _] (by simp),
      fieldAt_cat [_, _, _] _ [_, _] (by simp [Nat.add_assoc]),
      fieldAt_cat [_, _, _, _] _ [_] (by simp [Nat.add_assoc]),
      fieldAt_cat [_, _, _, _, _] _ [] (by simp [Nat.add_assoc])⟩
  | readRequest channel timeout =>
    simp only [InPkt.type, decodeIn, h, InPkt.readRequest.injEq]
    exact ⟨fieldAt_cat [_] _ [_] (by simp), fieldAt_cat [_, _] _ [] (by simp)⟩

/-- Words that join to the bit string of an outbound packet hold its fields. -/
theorem decodeOut_of_joinWords {q : OutPkt c} {words : List (Word c)} (h : joinWords words = q.bitString) :
    decodeOut c q.type words = q := by
  cases q with
  | echoReply => rfl
  | bufferSpaceReply space | readReplyNoEvent overflow =>
    simp only [OutPkt.type, decodeOut, h, OutPkt.bufferSpaceReply.injEq, OutPkt.readReplyNoEvent.injEq]
    exact fieldAt_cat [_] _ [] (by simp)
  | readReply timestamp data =>
    simp only [OutPkt.type, decodeOut, h, OutPkt.readReply.injEq]
    exact ⟨fieldAt_cat [_] _ [_] (by simp), fieldAt_cat [_, _] _ [] (by simp)⟩

/-! ### Packets at the front of a list of words (R80, R81, R83, R84) -/

/-- Cutting a packet succeeds exactly where its words are all there. -/
theorem takePacket_eq_ok_iff {α : Type} {ws n : Nat} {words : List (BitVec ws)} {read : List (BitVec ws) → α}
    {r : α × List (BitVec ws)} :
    takePacket words n read = .ok r ↔ n ≤ words.length ∧ r = (read (words.take n), words.drop n) := by
  unfold takePacket
  split
  · simp; omega
  · simp [eq_comm]; omega

/-- An inbound packet is decoded exactly where the header names a type whose words are all there. -/
theorem decodeInWords_eq_ok_iff {words : List (Word c)} {r : InPkt c × List (Word c)} :
    decodeInWords c words = .ok r ↔
      words ≠ [] ∧ ∃ T, typeOfCodeIn c (headerCode c (words.headD 0)) = some T ∧
        c.lenIn T ≤ words.length ∧ r = (decodeIn c T (words.take (c.lenIn T)), words.drop (c.lenIn T)) := by
  cases words with
  | nil => simp [decodeInWords]
  | cons d words =>
    simp only [decodeInWords, List.headD_cons]
    cases typeOfCodeIn c (headerCode c d) <;> simp [takePacket_eq_ok_iff]

/-- An outbound packet is decoded exactly where the header names a type whose words are all there. -/
theorem decodeOutWords_eq_ok_iff {words : List (Word c)} {r : OutPkt c × List (Word c)} :
    decodeOutWords c words = .ok r ↔
      words ≠ [] ∧ ∃ T, typeOfCodeOut c (headerCode c (words.headD 0)) = some T ∧
        c.lenOut T ≤ words.length ∧ r = (decodeOut c T (words.take (c.lenOut T)), words.drop (c.lenOut T)) := by
  cases words with
  | nil => simp [decodeOutWords]
  | cons d words =>
    simp only [decodeOutWords, List.headD_cons]
    cases typeOfCodeOut c (headerCode c d) <;> simp [takePacket_eq_ok_iff]

end

/-- Settles O1: the header word names the packet's type, whose words join to the packet's bit string. -/
theorem inboundPacketsRoundTrip : Obligations.InboundPacketsRoundTrip := by
  intro c p rest hc
  have hlen := one_le_lenIn hc p.type
  have hcode : headerCode c ((encodeIn p ++ rest).headD 0) = c.codeIn p.type := by
    rw [headD_append (by simpa using hlen)]
    exact headerCode_splitWords_cat (h_le_ws hc) hlen ((codesIn_nodup_lt hc).2 _) p.fields
  refine decodeInWords_eq_ok_iff.mpr ⟨?_, p.type, ?_, by simp, ?_⟩
  · exact List.ne_nil_of_length_pos (by simp; omega)
  · rw [hcode, typeOfCodeIn_codeIn hc]
  · rw [← length_encodeIn, List.take_left, List.drop_left, decodeIn_of_joinWords (joinWords_encodeIn hc p)]

/-- Settles O2: as for the inbound packets, with the outbound codes and layouts. -/
theorem outboundPacketsRoundTrip : Obligations.OutboundPacketsRoundTrip := by
  intro c q rest hc
  have hlen := one_le_lenOut hc q.type
  have hcode : headerCode c ((encodeOut q ++ rest).headD 0) = c.codeOut q.type := by
    rw [headD_append (by simpa using hlen)]
    exact headerCode_splitWords_cat (h_le_ws hc) hlen ((codesOut_nodup_lt hc).2 _) q.fields
  refine decodeOutWords_eq_ok_iff.mpr ⟨?_, q.type, ?_, by simp, ?_⟩
  · exact List.ne_nil_of_length_pos (by simp; omega)
  · rw [hcode, typeOfCodeOut_codeOut hc]
  · rw [← length_encodeOut, List.take_left, List.drop_left, decodeOut_of_joinWords (joinWords_encodeOut hc q)]

/-! ### The rows of the opcode table (R86) -/

/-- A row of the opcode table is an inbound packet or an outbound packet. -/
theorem Instr.exists_pkt (i : Instr) : (∃ p, i = Instr.ofIn p) ∨ ∃ q, i = Instr.ofOut q := by
  cases i with
  | echoRequest => exact .inl ⟨.echoRequest, rfl⟩
  | setTime timestamp => exact .inl ⟨.setTime timestamp, rfl⟩
  | reset phy => exact .inl ⟨.reset phy, rfl⟩
  | write channel timestamp address extraWordCount shortData =>
    exact .inl ⟨.write channel timestamp address extraWordCount shortData, rfl⟩
  | bufferSpaceRequest => exact .inl ⟨.bufferSpaceRequest, rfl⟩
  | readRequest channel timeout => exact .inl ⟨.readRequest channel timeout, rfl⟩
  | echoReply => exact .inr ⟨.echoReply, rfl⟩
  | bufferSpaceReply space => exact .inr ⟨.bufferSpaceReply space, rfl⟩
  | readReplyNoEvent overflow => exact .inr ⟨.readReplyNoEvent overflow, rfl⟩
  | readReply timestamp data => exact .inr ⟨.readReply timestamp data, rfl⟩

@[simp] theorem direction_ofIn (p : InPkt Config.dflt) : (Instr.ofIn p).direction = .inbound := by cases p <;> rfl
@[simp] theorem direction_ofOut (q : OutPkt Config.dflt) : (Instr.ofOut q).direction = .outbound := by
  cases q <;> rfl
@[simp] theorem encode_ofIn (p : InPkt Config.dflt) : encode (Instr.ofIn p) = encodeIn p := by cases p <;> rfl
@[simp] theorem encode_ofOut (q : OutPkt Config.dflt) : encode (Instr.ofOut q) = encodeOut q := by cases q <;> rfl

/-- Settles O3: each row is a packet of its direction, and the default configuration meets 00_scope.md R9. -/
theorem everyInstructionRoundTrips : Obligations.EveryInstructionRoundTrips := by
  intro i rest
  obtain ⟨p, rfl⟩ | ⟨q, rfl⟩ := i.exists_pkt
  · simp only [direction_ofIn, encode_ofIn, decode, inboundPacketsRoundTrip _ p rest (by decide)]
  · simp only [direction_ofOut, encode_ofOut, decode, outboundPacketsRoundTrip _ q rest (by decide)]

/-- Settles O4: each vector is words of the default configuration, which the decoder reads by computation. -/
theorem vectorWordsDecode : Obligations.VectorWordsDecode := by
  unfold Obligations.VectorWordsDecode
  decide

/-- Settles O5: every field of a type lies below `bits(T)`. -/
theorem receivedPaddingIsIgnored : Obligations.ReceivedPaddingIsIgnored := by
  intro c T words words' h
  have field {w lo : Nat} (hle : lo + w ≤ c.bitsIn T) :
      fieldAt w lo (joinWords words) = fieldAt w lo (joinWords words') := fieldAt_congr h hle
  cases T with
  | echoRequest | bufferSpaceRequest => rfl
  | setTime | reset | write | readRequest =>
    simp only [Config.bitsIn, Config.layoutIn, List.sum_cons, List.sum_nil] at field
    simp only [decodeIn]
    congr 1 <;> exact field (by omega)

/-- Settles O6: the words join to the bit string, whose lowest part is the code and which fits `bits(T)`. -/
theorem emittedPacketHasItsLengthCodeAndZeroPadding :
    Obligations.EmittedPacketHasItsLengthCodeAndZeroPadding := by
  intro c q hc
  rw [joinWords_encodeOut hc]
  refine ⟨length_encodeOut q, ?_, bitStringOut_lt q⟩
  rw [OutPkt.bitString, cat, Nat.add_mul_mod_self_left, BitVec.toNat_ofNat, Nat.mod_mod,
    Nat.mod_eq_of_lt ((codesOut_nodup_lt hc).2 _)]

/-- Settles O7: the code maps are injective by 00_scope.md R9 (b) and (c). -/
theorem headerCodeNamesItsTypeOrNone : Obligations.HeaderCodeNamesItsTypeOrNone :=
  fun _ hc => ⟨typeOfCodeIn_codeIn hc, typeOfCodeOut_codeOut hc, typeOfCodeIn_eq_none_iff⟩

/-- The header of a word of the default configuration is its low byte. -/
theorem headerCode_dflt (d : Word Config.dflt) : headerCode Config.dflt d = d.toNat % 256 := by
  simp [headerCode, fieldAt]

/-- Settles O8: the header is the low byte, and the six codes are 0 to 5. -/
theorem unrecognisedCodesAtTheDefaults : Obligations.UnrecognisedCodesAtTheDefaults := by
  intro d
  rw [headerCode_dflt, typeOfCodeIn_eq_none_iff]
  generalize d.toNat % 256 = code
  constructor
  · intro h
    have hne : 0 ≠ code ∧ 1 ≠ code ∧ 2 ≠ code ∧ 3 ≠ code ∧ 4 ≠ code ∧ 5 ≠ code :=
      ⟨h .echoRequest, h .setTime, h .reset, h .write, h .bufferSpaceRequest, h .readRequest⟩
    omega
  · intro h T
    have hlt : Config.dflt.codeIn T < 6 := by cases T <;> decide
    omega

/-! ### A placed packet (log entry 9) -/

/-- Words that begin with a one-word packet complete it as the first word of a frame. -/
theorem done_beforeFrame {c : Config} (s : RxRegs c) (inp : Inputs c) {words : List (Word c)} {T : InType}
    (hT : typeOfCodeIn c (headerCode c (words.headD 0)) = some T) (h1 : c.lenIn T = 1)
    (hlen : c.lenIn T ≤ words.length) :
    (assemble s.beforeFrame (inp.withLinkWord (words.headD 0))).done
      = some (decodeIn c T (words.take (c.lenIn T))) := by
  cases words with
  | nil => simp [h1] at hlen
  | cons d words =>
    rw [assemble_header rfl rfl rfl rfl]
    simp only [asmHeader, Inputs.withLinkWord, hT, h1, if_true]
    rfl

/-- The words before a packet's last stand in the assembler's buffer. -/
theorem take_asmBuf_beforeLastWord {c : Config} (s : RxRegs c) {words : List (Word c)} {T : InType}
    (hlen : c.lenIn T ≤ words.length) :
    (s.beforeLastWord T words).asmBuf.toList.take (c.lenIn T - 1) = words.take (c.lenIn T - 1) := by
  have hmax := lenIn_le_lmaxIn c T
  apply List.ext_getElem
  · simp; omega
  · intro i hi hi'
    have hlt : i < c.lenIn T - 1 ∧ i < words.length := by simpa using hi'
    simp [RxRegs.beforeLastWord, hlt]

/-- The words before a packet's last, with its last on the link, are the packet's words. -/
theorem asmWords_beforeLastWord {c : Config} (s : RxRegs c) {words : List (Word c)} {T : InType}
    (h1 : 1 ≤ c.lenIn T) (hlen : c.lenIn T ≤ words.length) :
    asmWords (s.beforeLastWord T words) (words.getD (c.lenIn T - 1) 0) = words.take (c.lenIn T) := by
  have hbuf := take_asmBuf_beforeLastWord s hlen
  calc asmWords (s.beforeLastWord T words) (words.getD (c.lenIn T - 1) 0)
      = words.take (c.lenIn T - 1) ++ [words.getD (c.lenIn T - 1) 0] := congrArg (· ++ _) hbuf
    _ = words.take (c.lenIn T) := by
      rw [List.getD_eq_getElem _ _ (by omega), List.take_concat_get', Nat.sub_add_cancel h1]

/-- The last word of a packet in progress completes the packet of the words collected (40_packet_assembler.md
R106, R108). -/
theorem done_of_last_word {c : Config} {s : RxRegs c} {inp : Inputs c} (hb : s.asmBusy = true)
    (hf : inp.rxFrameActive = true) (hlast : s.asmIdx + 1 = c.lenIn s.asmType) :
    (assemble s inp).done = some (decodeIn c s.asmType (asmWords s inp.rxData)) := by
  rw [assemble_collect hb hf, asmCollect, if_pos hlast]
  rfl

/-- Words that begin with a longer packet complete it with its last word on the link. -/
theorem done_beforeLastWord {c : Config} (s : RxRegs c) (inp : Inputs c) {words : List (Word c)} {T : InType}
    (h1 : 1 ≤ c.lenIn T) (hlen : c.lenIn T ≤ words.length) :
    (assemble (s.beforeLastWord T words) (inp.withLinkWord (words.getD (c.lenIn T - 1) 0))).done
      = some (decodeIn c T (words.take (c.lenIn T))) :=
  (done_of_last_word rfl rfl (Nat.sub_add_cancel h1)).trans
    (congrArg (fun ws => some (decodeIn c T ws)) (asmWords_beforeLastWord s h1 hlen))

/-- In `Idle` without `rst`, the packet the assembler completes is the current instruction. -/
theorem current_of_done {s : State} {p : InPkt Config.dflt} (hrst : s.nextInputs.rst = false)
    (hs : s.eng.rx.state = .idle) (hp : (assemble s.eng.rx s.nextInputs).done = some p) :
    s.current = some (Instr.ofIn p) := by
  simp [State.current, hrst, (rxCurrent_idle hs).trans hp]

/-- The packet at the front of placed words is the current instruction. -/
theorem current_placeWords (s : State) {words : List (Word Config.dflt)} {T : InType}
    (hT : typeOfCodeIn Config.dflt (headerCode Config.dflt (words.headD 0)) = some T)
    (hlen : Config.dflt.lenIn T ≤ words.length) :
    (s.placeWords words).current
      = some (Instr.ofIn (decodeIn Config.dflt T (words.take (Config.dflt.lenIn T)))) := by
  simp only [State.placeWords, hT]
  split
  · exact current_of_done rfl rfl (done_beforeFrame _ _ hT ‹_› hlen)
  · exact current_of_done rfl rfl (done_beforeLastWord _ _ (one_le_lenIn (by decide) T) hlen)

/-- The receiver reads an instruction exactly where it decodes an inbound packet. -/
theorem decodeTableWord_eq_some_iff {nbits w : Nat} {i : Instr} :
    decodeTableWord nbits w = some i ↔
      ∃ r, decodeInWords Config.dflt (tableWords nbits w) = .ok r ∧ Instr.ofIn r.1 = i := by
  unfold decodeTableWord decode
  cases decodeInWords Config.dflt (tableWords nbits w) <;> simp

/-- Settles O60: the packet the words decode to is the one whose words are placed. -/
theorem placedWordRunsNext : Obligations.PlacedWordRunsNext := by
  intro s nbits w i hi
  obtain ⟨r, hr, rfl⟩ := decodeTableWord_eq_some_iff.mp hi
  obtain ⟨-, T, hT, hlen, rfl⟩ := decodeInWords_eq_ok_iff.mp hr
  exact current_placeWords s hT hlen

end Sys2Proof
end

section
/-! The Packet Assembler (40_packet_assembler.md): an `Idle` tick of the engine by what the assembler yields in it,
and the assembly of a whole frame (R113) by induction over its words. -/

namespace Sys2Proof.Machine
open Claims

section
variable {c : Config}

/-! ### What the assembler yields for a word (R103 to R106) -/

theorem asmHeader_unknown {s : RxRegs c} {d : Word c} (hT : typeOfCodeIn c (headerCode c d) = none) :
    asmHeader s true d = asmUnknown s true := by
  simp [asmHeader, hT]

theorem asmHeader_oneWord {s : RxRegs c} {d : Word c} {T : InType}
    (hT : typeOfCodeIn c (headerCode c d) = some T) (hlen : c.lenIn T = 1) :
    asmHeader s true d = asmComplete s true (decodeIn c T [d]) := by
  simp [asmHeader, hT, hlen]

theorem asmHeader_multiWord {s : RxRegs c} {d : Word c} {T : InType}
    (hT : typeOfCodeIn c (headerCode c d) = some T) (hlen : 1 < c.lenIn T) :
    asmHeader s true d = asmStart s true T d := by
  simp [asmHeader, hT, hlen.ne']

@[simp] theorem type_decodeIn (T : InType) (words : List (Word c)) : (decodeIn c T words).type = T := by
  cases T <;> rfl

/-- Words that decode to a packet with no word left over are that packet's words. -/
theorem decodeIn_of_decodeInWords {words : List (Word c)} {p : InPkt c}
    (h : decodeInWords c words = .ok (p, [])) : decodeIn c p.type words = p := by
  obtain ⟨-, T, -, -, hr⟩ := decodeInWords_eq_ok_iff.mp h
  obtain ⟨rfl, hdrop⟩ := Prod.mk.inj hr
  rw [type_decodeIn, List.take_of_length_le (List.drop_eq_nil_iff.mp hdrop.symm)]

/-- The header of a packet's first word names the packet's type (30_encoding.md R70, R81). -/
theorem typeOfCodeIn_encodeIn (hc : c.wellFormed = true) (p : InPkt c) :
    typeOfCodeIn c (headerCode c ((encodeIn p).headD 0)) = some p.type := by
  have hcode : headerCode c ((encodeIn p).headD 0) = c.codeIn p.type :=
    headerCode_splitWords_cat (h_le_ws hc) (one_le_lenIn hc p.type) ((codesIn_nodup_lt hc).2 _) p.fields
  rw [hcode, typeOfCodeIn_codeIn hc]

/-! ### A tick of the engine by what the assembler yields -/

/-- The state Receive Dispatch moves to from `Idle` (42_receive_dispatch.md R141, R142). -/
def stateAfter (a : AsmResult c) : RxState := a.done.elim .idle fun p => entered p.type

/-- The receive process in an `Idle` tick: the assembler's writes and conditions, the state of the packet it
completes, and the echo handshake where that is an EchoRequest. -/
theorem receive_idle {s : RxRegs c} {inp : Inputs c} {a : AsmResult c} (hs : s.state = .idle)
    (ha : assemble s inp = a) (dr : Draws c) :
    receive s inp dr = .ok
      { regs := { a.regs with state := stateAfter a }
        ports := (RxTick.mk s a inp dr).base.ports
        sig := { RxSignals.quiet with echoSet := a.done.any fun p => decide (p.type = .echoRequest) } } := by
  subst ha
  cases hd : (assemble s inp).done with
  | none =>
    rw [receive_none dr ((rxCurrent_idle hs).trans hd)]
    simp only [rxNoPacket, hs, stateAfter, hd]
    rfl
  | some p =>
    rw [receive_some dr ((rxCurrent_idle hs).trans hd), rxPacket_idle hs, stateAfter, hd]
    cases p <;> rfl

/-- Receive Dispatch and the accumulator write no register of the assembler. -/
theorem receive_regs {s : RxRegs c} {inp : Inputs c} {dr : Draws c} {r : RxResult c}
    (h : receive s inp dr = .ok r) :
    ∃ S cnt words, r.regs = { (assemble s inp).regs with state := S, accCnt := cnt, accWords := words } := by
  obtain ⟨a, rfl, hr⟩ := receive_cases h
  rcases hr with ⟨-, -, rfl⟩ | ⟨hi, p, -, rfl⟩ | ⟨-, v, -, rfl⟩ | ⟨-, phy, -, rfl⟩ |
    ⟨-, channel, timestamp, address, k, shortData, -, hw⟩ | ⟨-, rfl⟩ | ⟨-, channel, timeout, -, rfl⟩ | ⟨-, -, -, rfl⟩
  · exact ⟨_, _, _, rfl⟩
  · rw [rxPacket_idle hi]
    cases p <;> exact ⟨_, _, _, rfl⟩
  · exact ⟨_, _, _, rfl⟩
  · rw [goto_regs, resetEffect_regs]
    exact ⟨_, _, _, rfl⟩
  · rcases handleWrite_cases hw with ⟨-, -, rfl⟩ | ⟨-, -, rfl⟩ | ⟨-, rfl⟩ | ⟨-, rfl⟩ <;> exact ⟨_, _, _, rfl⟩
  · exact ⟨_, _, _, rfl⟩
  · exact ⟨_, _, _, rfl⟩
  · exact ⟨_, _, _, rfl⟩

/-- In a tick without `rst` the packet in progress and its type are what the assembler leaves. -/
theorem engineTick_assembler {e e' : Engine c} {inp : Inputs c} {dr : Draws c} {out : Outputs c}
    (hrst : inp.rst = false) (h : engineTick c e inp dr = .ok (e', out)) :
    e'.rx.asmBusy = (assemble e.rx inp).regs.asmBusy ∧ e'.rx.asmType = (assemble e.rx inp).regs.asmType := by
  rcases engineTick_cases h with ⟨hrst', -⟩ | ⟨-, r, t, hr, -, rfl, -⟩
  · rw [hrst] at hrst'; cases hrst'
  · obtain ⟨S, cnt, words, hregs⟩ := receive_regs hr
    simp only [hregs, and_self]

/-- A tick of the engine in `Idle` answers, with the receive side that what the assembler yields gives. -/
theorem engineTick_idle {e : Engine c} {inp : Inputs c} {a : AsmResult c} (dr : Draws c) (hrst : inp.rst = false)
    (htx : e.tx.Inv) (hs : e.rx.state = .idle) (ha : assemble e.rx inp = a) :
    ∃ e' out, engineTick c e inp dr = .ok (e', out) ∧
      e'.rx = { a.regs with state := stateAfter a } ∧
      out.rx = { RxPorts.defaults dr with unknownPacketType := a.unknownType, packetTruncated := a.truncated } ∧
      e'.flow.echoReq = a.done.any fun p => decide (p.type = .echoRequest) := by
  obtain ⟨t, ht⟩ := reply_ok htx e.flow inp dr
  exact ⟨_, _, engineTick_of hrst (receive_idle hs ha dr) ht, rfl, rfl, rfl⟩

end

/-! ### The obligations of one tick -/

/-- Settles O9: the first word is read as a header; no later tick of the assembler writes `asm_type`. -/
theorem firstWordStartsAMultiWordPacket : Obligations.FirstWordStartsAMultiWordPacket := by
  refine ⟨?_, ?_⟩
  · intro c e inp dr T hrst htx hb hf hp hs hT hlen
    have ha := (assemble_header hb hs hf hp).trans (asmHeader_multiWord hT hlen)
    obtain ⟨e', out, htick, hrx, hout, -⟩ := engineTick_idle dr hrst htx hs ha
    exact ⟨e', out, htick, by simp [hrx, asmStart, stateAfter, hs], hout⟩
  · intro c e e' inp dr out hrst hb htick
    rw [(engineTick_assembler hrst htick).2]
    cases hf : inp.rxFrameActive with
    | false => rw [assemble_truncate hb hf]; rfl
    | true =>
      rw [assemble_collect hb hf, asmCollect]
      split <;> rfl

/-- Settles O10: a header whose type has one word completes its packet. -/
theorem oneWordPacketCompletesAtOnce : Obligations.OneWordPacketCompletesAtOnce := by
  intro c e inp dr T hrst htx hb hf hp hs hT hlen
  have ha := (assemble_header hb hs hf hp).trans (asmHeader_oneWord hT hlen)
  obtain ⟨e', out, htick, hrx, hout, -⟩ := engineTick_idle dr hrst htx hs ha
  exact ⟨e', out, htick, by simp [hrx, asmComplete, stateAfter, hb], hout⟩

/-- Settles O11: by I1 the tick is one of `Idle`, and the word is the packet's last or an inner one. -/
theorem furtherWordIsStoredOrCompletes : Obligations.FurtherWordIsStoredOrCompletes := by
  intro c e inp dr hrst he hb hf
  obtain ⟨hs, -⟩ := he.rx.collecting hb
  have ha := assemble_collect hb hf
  unfold asmCollect at ha
  split at ha
  case isTrue hlast =>
    obtain ⟨e', out, htick, hrx, hout, -⟩ := engineTick_idle dr hrst he.tx hs ha
    exact ⟨e', out, htick, by simp [hrx, asmComplete, asmWords, stateAfter, hb, hlast], hout⟩
  case isFalse hinner =>
    obtain ⟨e', out, htick, hrx, hout, -⟩ := engineTick_idle dr hrst he.tx hs ha
    exact ⟨e', out, htick, by simp [hrx, asmStore, stateAfter, hs, hinner], hout⟩

/-- Settles O12: a header that names no type raises the condition and writes nothing else. -/
theorem unknownCodeRaisesAndDiscards : Obligations.UnknownCodeRaisesAndDiscards := by
  intro c e inp dr hrst htx hb hf hp hs hT
  have ha := (assemble_header hb hs hf hp).trans (asmHeader_unknown hT)
  obtain ⟨e', out, htick, hrx, hout, -⟩ := engineTick_idle dr hrst htx hs ha
  exact ⟨e', out, htick, by simp [hrx, asmUnknown, asmQuiet, stateAfter, hs], hout⟩

/-- Settles O13: by I1 the tick is one of `Idle`, in which the assembler truncates. -/
theorem frameDropTruncatesThePacket : Obligations.FrameDropTruncatesThePacket := by
  intro c e inp dr hrst he hb hf
  obtain ⟨hs, -⟩ := he.rx.collecting hb
  obtain ⟨e', out, htick, hrx, hout, -⟩ := engineTick_idle dr hrst he.tx hs (assemble_truncate hb hf)
  exact ⟨e', out, htick, by simp [hrx, asmTruncate, stateAfter, hs], hout⟩

/-- Settles O14: the assembler only follows the frame. -/
theorem wordWithoutARisingEdgeIsIgnored : Obligations.WordWithoutARisingEdgeIsIgnored := by
  intro c e inp dr hrst htx hb hs hedge
  obtain ⟨e', out, htick, hrx, hout, -⟩ := engineTick_idle dr hrst htx hs (assemble_quiet hb (.inr hedge))
  exact ⟨e', out, htick, by simp [hrx, asmQuiet, stateAfter, hs], hout⟩

/-- Settles O15: with the frame inactive the assembler truncates a packet in progress, and starts none. -/
theorem inactiveFrameResynchronises : Obligations.InactiveFrameResynchronises := by
  intro c e e' inp dr out hf htick
  cases hrst : inp.rst with
  | true =>
    rcases engineTick_cases htick with ⟨-, rfl, -⟩ | ⟨hrst', -⟩
    · rfl
    · rw [hrst] at hrst'; cases hrst'
  | false =>
    rw [(engineTick_assembler hrst htick).1]
    cases hb : e.rx.asmBusy with
    | true => rw [assemble_truncate hb hf]; rfl
    | false => rw [assemble_quiet hb (.inr (.inl hf))]; exact hb

/-- Settles O59: the last word of the packet in progress completes the packet the words decode to. -/
theorem collectedWordsAreFetched : Obligations.CollectedWordsAreFetched := by
  intro s p hrst hs hb hf hT hlast hdec
  apply current_of_done hrst hs
  rw [done_of_last_word hb hf (hT ▸ hlast), hT]
  exact congrArg some (decodeIn_of_decodeInWords hdec)

/-! ### A whole frame (R113) -/

section
variable {c : Config}

theorem carries_cons {w : Word c} {words : List (Word c)} {ticks : List (Inputs c × Draws c)}
    (h : carries (w :: words) ticks) :
    ∃ inp dr rest, ticks = (inp, dr) :: rest ∧ inp.rst = false ∧ inp.rxFrameActive = true ∧ inp.rxData = w ∧
      carries words rest := by
  obtain ⟨⟨inp, dr⟩, rest, rfl, hx, hrest⟩ := List.map_eq_cons_iff.mp h
  simp only [Prod.mk.injEq] at hx
  obtain ⟨hrst, hf, hd⟩ := hx
  exact ⟨inp, dr, rest, rfl, hrst, hf, hd, hrest⟩

theorem run_cons {e e' e'' : Engine c} {inp : Inputs c} {dr : Draws c} {ticks : List (Inputs c × Draws c)}
    {out : Outputs c} {outs : List (Outputs c)} (htick : engineTick c e inp dr = .ok (e', out))
    (hrun : e'.run ticks = .ok (e'', outs)) : e.run ((inp, dr) :: ticks) = .ok (e'', out :: outs) := by
  simp only [Engine.run, htick, hrun]

/-- A configuration that meets 00_scope.md R9 keeps the invariants in a tick. -/
theorem Engine.Inv.of_engineTick (hc : c.wellFormed = true) {e e' : Engine c} (he : e.Inv) {inp : Inputs c}
    {dr : Draws c} {out : Outputs c} (htick : engineTick c e inp dr = .ok (e', out)) : e'.Inv := by
  obtain ⟨_, _, htick', hinv⟩ := engineTick_inv hc he inp dr
  cases htick.symm.trans htick'
  exact hinv

/-- The default ports assert nothing (10_state.md R38). -/
theorem noReceiveOutput_defaults (dr : Draws c) : noReceiveOutput (RxPorts.defaults dr) :=
  ⟨rfl, rfl, rfl, rfl, rfl, rfl⟩

/-- Over these ticks the receive process assembles packet `p` and enters its state, with no command, no pulse
and no condition. -/
def Assembles (e : Engine c) (ticks : List (Inputs c × Draws c)) (p : InPkt c) : Prop :=
  ∃ e' outs, e.run ticks = .ok (e', outs) ∧
    e'.rx.pkt = some p ∧ e'.rx.state = entered p.type ∧ e'.rx.asmBusy = false ∧
    e'.flow.echoReq = decide (p.type = .echoRequest) ∧
    ∀ o ∈ outs, noReceiveOutput o.rx

/-- The engine has collected the words `pre` of a packet of type `T` in progress. -/
structure Collecting (e : Engine c) (T : InType) (pre : List (Word c)) : Prop where
  inv : e.Inv
  busy : e.rx.asmBusy = true
  type : e.rx.asmType = T
  idx : e.rx.asmIdx = pre.length
  buf : e.rx.asmBuf.toList.take pre.length = pre

/-- A tick with no receive output before an assembly is part of it. -/
theorem Assembles.cons {e e' : Engine c} {inp : Inputs c} {dr : Draws c} {ticks : List (Inputs c × Draws c)}
    {out : Outputs c} {p : InPkt c} (htick : engineTick c e inp dr = .ok (e', out))
    (hout : out.rx = RxPorts.defaults dr) (h : Assembles e' ticks p) : Assembles e ((inp, dr) :: ticks) p := by
  obtain ⟨e'', outs, hrun, hpkt, hstate, hbusy, hecho, houts⟩ := h
  refine ⟨e'', out :: outs, run_cons htick hrun, hpkt, hstate, hbusy, hecho, ?_⟩
  rw [List.forall_mem_cons, hout]
  exact ⟨noReceiveOutput_defaults dr, houts⟩

/-- The tick that exposes a packet assembles it (R108). -/
theorem assembles_of_complete {e : Engine c} (he : e.Inv) (hs : e.rx.state = .idle) {inp : Inputs c}
    (hrst : inp.rst = false) {p : InPkt c} (ha : assemble e.rx inp = asmComplete e.rx true p) (dr : Draws c) :
    Assembles e [(inp, dr)] p := by
  obtain ⟨e', out, htick, hrx, hout, hecho⟩ := engineTick_idle dr hrst he.tx hs ha
  refine ⟨e', [out], run_cons htick rfl, by rw [hrx]; rfl, by rw [hrx]; rfl, by rw [hrx]; rfl, hecho, ?_⟩
  rw [List.forall_mem_singleton, hout]
  exact noReceiveOutput_defaults dr

/-- A word written after the first `i` of a buffer stands after them. -/
theorem take_succ_setIfInBounds {α : Type} {n i : Nat} (v : Vector α n) (hi : i < n) (d : α) :
    (v.setIfInBounds i d).toList.take (i + 1) = v.toList.take i ++ [d] := by
  have hset : (v.setIfInBounds i d).toList = v.toList.set i d := by simp
  rw [hset, ← List.take_concat_get' _ i (by simpa using hi), List.take_set_of_le le_rfl, List.getElem_set_self]

/-- The first word of a multi-word packet begins its collection (R104). -/
theorem collecting_first (hc : c.wellFormed = true) {e : Engine c} (he : e.Inv) (hs : e.rx.state = .idle)
    (hb : e.rx.asmBusy = false) (hp : e.rx.framePrev = false) {inp : Inputs c} (hrst : inp.rst = false)
    (hf : inp.rxFrameActive = true) {T : InType} (hT : typeOfCodeIn c (headerCode c inp.rxData) = some T)
    (hlen : 1 < c.lenIn T) (dr : Draws c) :
    ∃ e' out, engineTick c e inp dr = .ok (e', out) ∧ out.rx = RxPorts.defaults dr ∧
      Collecting e' T [inp.rxData] := by
  obtain ⟨e', out, htick, hrx, hout⟩ :=
    firstWordStartsAMultiWordPacket.1 c e inp dr T hrst he.tx hb hf hp hs hT hlen
  refine ⟨e', out, htick, hout, he.of_engineTick hc htick, by rw [hrx], by rw [hrx], by rw [hrx]; rfl, ?_⟩
  rw [hrx]
  exact take_succ_setIfInBounds (i := 0) _ (Nat.zero_lt_of_lt (hlen.trans_le (lenIn_le_lmaxIn c T))) _

/-- An inner word joins the words collected (R106). -/
theorem Collecting.inner (hc : c.wellFormed = true) {e : Engine c} {T : InType} {pre : List (Word c)}
    (h : Collecting e T pre) {inp : Inputs c} (hrst : inp.rst = false) (hf : inp.rxFrameActive = true)
    (hlen : pre.length + 1 < c.lenIn T) (dr : Draws c) :
    ∃ e' out, engineTick c e inp dr = .ok (e', out) ∧ out.rx = RxPorts.defaults dr ∧
      Collecting e' T (pre ++ [inp.rxData]) := by
  obtain ⟨hinv, hb, rfl, hidx, hbuf⟩ := h
  obtain ⟨e', out, htick, hrx, hout⟩ := furtherWordIsStoredOrCompletes c e inp dr hrst hinv hb hf
  rw [if_neg (by omega), hidx] at hrx
  refine ⟨e', out, htick, hout, hinv.of_engineTick hc htick, by rw [hrx]; exact hb, by rw [hrx],
    by simp [hrx], ?_⟩
  have hmax := lenIn_le_lmaxIn c e.rx.asmType
  rw [hrx, List.length_append, List.length_singleton, take_succ_setIfInBounds _ (by omega), hbuf]

/-- The last word assembles the packet of the words collected (R106, R108). -/
theorem Collecting.last {e : Engine c} {T : InType} {pre : List (Word c)} (h : Collecting e T pre)
    {inp : Inputs c} (hrst : inp.rst = false) (hf : inp.rxFrameActive = true)
    (hlen : pre.length + 1 = c.lenIn T) (dr : Draws c) :
    Assembles e [(inp, dr)] (decodeIn c T (pre ++ [inp.rxData])) := by
  obtain ⟨hinv, hb, rfl, hidx, hbuf⟩ := h
  obtain ⟨hs, -⟩ := hinv.rx.collecting hb
  refine assembles_of_complete hinv hs hrst ?_ dr
  rw [assemble_collect hb hf, asmCollect, if_pos (by omega), asmWords, hidx, hbuf]

/-- The remaining words of a packet in progress assemble it, by induction over them. -/
theorem Collecting.assembles (hc : c.wellFormed = true) {T : InType} {words : List (Word c)} (hne : words ≠ [])
    {e : Engine c} {pre : List (Word c)} {ticks : List (Inputs c × Draws c)} (h : Collecting e T pre)
    (hlen : pre.length + words.length = c.lenIn T) (hticks : carries words ticks) :
    Assembles e ticks (decodeIn c T (pre ++ words)) := by
  induction words generalizing e pre ticks with
  | nil => exact absurd rfl hne
  | cons w words ih =>
    obtain ⟨inp, dr, rest, rfl, hrst, hf, rfl, hrest⟩ := carries_cons hticks
    rw [List.length_cons] at hlen
    by_cases hw : words = []
    · subst hw
      obtain rfl := List.map_eq_nil_iff.mp hrest
      exact h.last hrst hf (by simpa using hlen) dr
    · have hpos := List.length_pos_of_ne_nil hw
      obtain ⟨e', out, htick, hout, h'⟩ := h.inner hc hrst hf (by omega) dr
      rw [List.append_cons]
      exact .cons htick hout (ih hw h' (by simp; omega) hrest)

/-- From the start of a frame, words that begin with the header of a type and are as many as it has assemble
the packet they decode to. -/
theorem assembles_from_frame_start (hc : c.wellFormed = true) {e : Engine c} (he : e.Inv)
    (hs : e.rx.state = .idle) (hb : e.rx.asmBusy = false) (hp : e.rx.framePrev = false) {T : InType}
    {words : List (Word c)} {ticks : List (Inputs c × Draws c)}
    (hT : typeOfCodeIn c (headerCode c (words.headD 0)) = some T) (hlen : words.length = c.lenIn T)
    (hticks : carries words ticks) : Assembles e ticks (decodeIn c T words) := by
  cases words with
  | nil => exact absurd (one_le_lenIn hc T) (by simp [← hlen])
  | cons w words =>
    obtain ⟨inp, dr, rest, rfl, hrst, hf, rfl, hrest⟩ := carries_cons hticks
    rw [List.headD_cons] at hT
    rw [List.length_cons] at hlen
    by_cases hw : words = []
    · subst hw
      obtain rfl := List.map_eq_nil_iff.mp hrest
      exact assembles_of_complete he hs hrst
        ((assemble_header hb hs hf hp).trans (asmHeader_oneWord hT hlen.symm)) dr
    · have hpos := List.length_pos_of_ne_nil hw
      obtain ⟨e', out, htick, hout, h⟩ := collecting_first hc he hs hb hp hrst hf hT (by omega) dr
      exact .cons htick hout (h.assembles hc hw (by simp; omega) hrest)

end

/-- Settles O16: the words of `p` begin with its header, are as many as its type has, and decode to `p`. -/
theorem frameIsAssembledIntoItsPacket : Obligations.FrameIsAssembledIntoItsPacket := by
  intro c p e ticks hc he hs hb hp hticks
  have h := assembles_from_frame_start hc he hs hb hp (typeOfCodeIn_encodeIn hc p) (length_encodeIn p) hticks
  rwa [decodeIn_of_joinWords (joinWords_encodeIn hc p)] at h

end Sys2Proof.Machine
end

section
/-! The Write Payload Accumulator (41_write_accumulator.md): the bits of a write command's data, one `HandlingWrite`
tick of the engine, and the accumulation of a whole payload (R126, R128) by induction over its words. -/

namespace Sys2Proof.Machine
open Claims

section
variable {c : Config}

/-! ### The data of a write command (R122, R127) -/

theorem catWidth_words {w : Nat} (words : List (BitVec w)) :
    catWidth (words.map fun v => ⟨w, v⟩) = words.length * w := by
  simp [catWidth, Function.comp_def]

theorem cat_zero_words (w n : Nat) : cat ((List.replicate n (0 : BitVec w)).map fun v => ⟨w, v⟩) = 0 := by
  induction n with
  | zero => rfl
  | succ n ih =>
    rw [List.replicate_succ, List.map_cons, cat, ih]
    simp

/-- Words of 0 above a concatenation add nothing to it. -/
theorem cat_append_zero_words (fs : List ((w : Nat) × BitVec w)) (w n : Nat) :
    cat (fs ++ (List.replicate n (0 : BitVec w)).map fun v => ⟨w, v⟩) = cat fs := by
  rw [cat_append, cat_zero_words, Nat.mul_zero, Nat.add_zero]

/-- `AccData` holds the whole concatenation: its width is that of the parts (R122). -/
theorem toNat_accData (shortData : BitVec c.wShort) (accWords : Vector (Word c) c.nmax) :
    (accData shortData accWords).toNat = cat (⟨_, shortData⟩ :: accWords.toList.map fun v => ⟨_, v⟩) := by
  rw [accData, BitVec.toNat_ofNat]
  apply Nat.mod_eq_of_lt
  have h := cat_lt (⟨_, shortData⟩ :: accWords.toList.map fun v => ⟨_, v⟩)
  rwa [catWidth_cons, catWidth_words, Vector.length_toList] at h

/-- The cleared words above the words taken add nothing to `AccData` (R122). -/
theorem accData_of_toList {shortData : BitVec c.wShort} {accWords : Vector (Word c) c.nmax}
    {words : List (Word c)} {n : Nat} (h : accWords.toList = words ++ List.replicate n 0) :
    accData shortData accWords = BitVec.ofNat _ (cat (⟨_, shortData⟩ :: words.map fun w => ⟨_, w⟩)) := by
  rw [accData, h, List.map_append, ← List.cons_append, cat_append_zero_words]

end

/-- Settles O25: each part stands above the widths of the parts before it. -/
theorem accDataPlacesShortDataAndWords : Obligations.AccDataPlacesShortDataAndWords := by
  intro c shortData accWords
  refine ⟨?_, fun j hj => ?_, ?_⟩
  · rw [toNat_accData]
    exact fieldAt_cat [] _ _ rfl
  · have hj' : j < accWords.toList.length := by simpa using hj
    have hsplit : accWords.toList = accWords.toList.take j ++ accWords[j] :: accWords.toList.drop (j + 1) := by
      rw [← Vector.getElem_toList hj', ← List.drop_eq_getElem_cons hj', List.take_append_drop]
    rw [toNat_accData, hsplit, List.map_append, List.map_cons, ← List.cons_append]
    refine fieldAt_cat _ _ _ ?_
    rw [catWidth_cons, catWidth_words, List.length_take_of_le hj'.le]
  · rw [accData_of_toList (words := []) (n := c.nmax) (by simp)]
    simp [cat, BitVec.ofNat_toNat]

section
variable {c : Config} {channel : BitVec c.wCh} {timestamp : BitVec c.wWts} {address : BitVec c.wAddr}
  {k : BitVec c.wExtra} {shortData : BitVec c.wShort}

/-! ### One `HandlingWrite` tick (R123 to R125) -/

/-- What a rule reads in a tick of a handling state, in which the assembler is quiet. -/
def handlingTick (s : RxRegs c) (inp : Inputs c) (dr : Draws c) : RxTick c :=
  { s := s, asm := asmQuiet s inp.rxFrameActive, inp := inp, dr := dr }

/-- Below the declared count the word of an active frame is taken (R123). -/
theorem handleWrite_consumes {s : RxRegs c} {inp : Inputs c} {dr : Draws c} (hs : s.state = .handlingWrite)
    (hlt : s.accCnt < k) (hf : inp.rxFrameActive = true) :
    handleWrite channel timestamp address k shortData (handlingTick s inp dr) =
      { regs :=
          { s with
            framePrev := true, accWords := s.accWords.setIfInBounds s.accCnt.toNat inp.rxData
            accCnt := s.accCnt + 1 }
        ports := .defaults dr
        sig := .quiet } := by
  simp only [handleWrite, handlingTick, hlt, hf, if_true, hs]
  rfl

/-- Below the declared count a frame that drops ends the Write with PacketTruncated (R124). -/
theorem handleWrite_truncates {s : RxRegs c} {inp : Inputs c} {dr : Draws c} (hlt : s.accCnt < k)
    (hf : inp.rxFrameActive = false) :
    handleWrite channel timestamp address k shortData (handlingTick s inp dr) =
      { regs := { s with framePrev := false, state := .idle, accCnt := 0, accWords := Vector.replicate _ 0 }
        ports := { RxPorts.defaults dr with packetTruncated := true }
        sig := .quiet } := by
  simp only [handleWrite, handlingTick, hlt, hf, if_true, Bool.false_eq_true, if_false]
  rfl

/-- At the declared count the write is submitted, whatever the frame does (R125). -/
theorem handleWrite_submits {s : RxRegs c} {inp : Inputs c} {dr : Draws c} (hk : s.accCnt = k) :
    handleWrite channel timestamp address k shortData (handlingTick s inp dr) =
      { regs :=
          { s with
            framePrev := inp.rxFrameActive, state := .idle, accCnt := 0, accWords := Vector.replicate _ 0 }
        ports :=
          { RxPorts.defaults dr with
            ioCmd := .write, ioChannel := channel, ioTimestamp := timestamp.setWidth c.wIoTs
            ioAddress := address, ioData := accData shortData s.accWords }
        sig := .quiet } := by
  simp only [handleWrite, handlingTick, hk, BitVec.lt_irrefl, if_false, if_true]
  rfl

/-- The receive process in `HandlingWrite` is the rule of its Write (42_receive_dispatch.md R143). -/
theorem receive_write {s : RxRegs c} (hs : s.state = .handlingWrite) (hb : s.asmBusy = false)
    (hp : s.pkt = some (.write channel timestamp address k shortData)) (inp : Inputs c) (dr : Draws c) :
    receive s inp dr = .ok (handleWrite channel timestamp address k shortData (handlingTick s inp dr)) := by
  have hi : s.state ≠ .idle := by simp [hs]
  rw [receive_some dr ((rxCurrent_handling hi (by simp [hs])).trans hp), assemble_quiet hb (.inl hi)]
  simp only [rxPacket, rxWrite, hs, handlingTick]

/-- Without a signal of the receive process only the reply side changes the shared registers. -/
theorem mergeFlow_quiet (f : FlowRegs c) (t : TxSignals) : mergeFlow f .quiet t = flowQuiet f t := by
  cases hb : t.bsClear <;> cases hr : t.rrClear <;>
    simp [mergeFlow, mergeBufferSpace, mergeBsReq, mergeReadSlot, RxSignals.quiet, flowQuiet, hb, hr]

end

/-- The whole next state of a `HandlingWrite` tick, by what the Write's rule yields. -/
theorem exec_write {s : State} {channel : BitVec 24} {timestamp : BitVec 64} {address : BitVec 16} {k : BitVec 8}
    {shortData : BitVec 8} {rx : RxRegs Config.dflt} {ports : RxPorts Config.dflt}
    (hrst : s.nextInputs.rst = false) (htx : s.eng.tx.Inv) (hs : s.eng.rx.state = .handlingWrite)
    (hb : s.eng.rx.asmBusy = false)
    (hr : handleWrite channel timestamp address k shortData (handlingTick s.eng.rx s.nextInputs s.draws)
      = { regs := rx, ports := ports, sig := .quiet }) :
    ∃ t, replyOf s = .ok t ∧
      exec (.write channel timestamp address k shortData) s =
        .next (afterInbound s rx (flowQuiet s.eng.flow t.sig) ports t) := by
  obtain ⟨t, ht⟩ := reply_ok htx s.eng.flow s.nextInputs s.draws
  have hrx : receiveAs (.write channel timestamp address k shortData)
      (rxWrite channel timestamp address k shortData) s.eng.rx s.nextInputs s.draws = ⟨rx, ports, .quiet⟩ := by
    rw [receiveAs_handling (by simp [hs]) hb, ← hr]
    simp only [rxWrite, hs, handlingTick]
  refine ⟨t, ht, ?_⟩
  rw [← mergeFlow_quiet]
  exact inboundTick_of hrst hrx ht

/-- Settles O22: the rule consumes, over a quiet assembler. -/
theorem writeConsumesAPayloadWord : Obligations.WriteConsumesAPayloadWord :=
  fun _ _ _ _ _ _ hrst htx hs hb hlt hf => exec_write hrst htx hs hb (handleWrite_consumes hs hlt hf)

/-- Settles O23: the rule truncates, over a quiet assembler. -/
theorem writeTruncatesWithoutACommand : Obligations.WriteTruncatesWithoutACommand :=
  fun _ _ _ _ _ _ hrst htx hs hb hlt hf => exec_write hrst htx hs hb (handleWrite_truncates hlt hf)

/-- Settles O24: the rule submits; at the defaults the timestamp is as wide as its port. -/
theorem writeSubmitsAtTheDeclaredCount : Obligations.WriteSubmitsAtTheDeclaredCount := by
  intro s channel timestamp address k shortData hrst htx hs hb hk
  have h := exec_write hrst htx hs hb (handleWrite_submits (channel := channel) (timestamp := timestamp)
    (address := address) (shortData := shortData) hk)
  rwa [show timestamp.setWidth Config.dflt.wIoTs = timestamp from timestamp.setWidth_eq] at h

/-! ### A whole payload (R126, R128) -/

section
variable {c : Config}

/-- The first tick of a run answers, and the run goes on from the state it leaves. -/
theorem run_cons_inv {e e'' : Engine c} {inp : Inputs c} {dr : Draws c} {ticks : List (Inputs c × Draws c)}
    {outs : List (Outputs c)} (h : e.run ((inp, dr) :: ticks) = .ok (e'', outs)) :
    ∃ e' out outs', engineTick c e inp dr = .ok (e', out) ∧ e'.run ticks = .ok (e'', outs') ∧
      outs = out :: outs' := by
  rw [Engine.run] at h
  split at h
  case h_1 => cases h
  case h_2 e' out htick =>
    split at h
    case h_1 => cases h
    case h_2 e'' outs' hrun =>
      cases h
      exact ⟨e', out, outs', htick, hrun, rfl⟩

/-- A run continued from its end state is one run. -/
theorem run_append {e e' e'' : Engine c} {ticks rest : List (Inputs c × Draws c)} {outs outs' : List (Outputs c)}
    (hrun : e.run ticks = .ok (e', outs)) (hrest : e'.run rest = .ok (e'', outs')) :
    e.run (ticks ++ rest) = .ok (e'', outs ++ outs') := by
  induction ticks generalizing e outs with
  | nil =>
    cases hrun
    exact hrest
  | cons tick ticks ih =>
    obtain ⟨e₁, out, outs₁, htick, hrun₁, rfl⟩ := run_cons_inv hrun
    exact run_cons htick (ih hrun₁)

/-- The engine has taken the payload words `pre` of the Write packet `p`. -/
structure Accumulating (e : Engine c) (p : InPkt c) (pre : List (Word c)) : Prop where
  inv : e.Inv
  state : e.rx.state = .handlingWrite
  pkt : e.rx.pkt = some p
  cnt : e.rx.accCnt.toNat = pre.length
  words : e.rx.accWords.toList.take pre.length = pre

section
variable {channel : BitVec c.wCh} {timestamp : BitVec c.wWts} {address : BitVec c.wAddr} {k : BitVec c.wExtra}
  {shortData : BitVec c.wShort} {e : Engine c} {pre : List (Word c)}

/-- A tick of the engine in `HandlingWrite` answers, with the receive side that the Write's rule yields. -/
theorem Accumulating.tick (h : Accumulating e (.write channel timestamp address k shortData) pre)
    {inp : Inputs c} (hrst : inp.rst = false) {dr : Draws c} {r : RxResult c}
    (hr : handleWrite channel timestamp address k shortData (handlingTick e.rx inp dr) = r) :
    ∃ e' out, engineTick c e inp dr = .ok (e', out) ∧ e'.rx = r.regs ∧ out.rx = r.ports := by
  obtain ⟨t, ht⟩ := reply_ok h.inv.tx e.flow inp dr
  obtain ⟨-, hb⟩ := h.inv.rx.noEdge (by simp [h.state])
  exact ⟨_, _, engineTick_of hrst ((receive_write h.state hb h.pkt inp dr).trans (congrArg _ hr)) ht, rfl, rfl⟩

/-- By I3 the words above those taken are 0 (10_state.md R43), so `AccData` is the words taken. -/
theorem Accumulating.accData_eq (h : Accumulating e (.write channel timestamp address k shortData) pre) :
    accData shortData e.rx.accWords = BitVec.ofNat _ (cat (⟨_, shortData⟩ :: pre.map fun w => ⟨_, w⟩)) := by
  obtain ⟨-, hzero⟩ := h.inv.rx.accumulating _ _ _ _ _ h.state h.pkt
  have hdrop : e.rx.accWords.toList.drop pre.length = List.replicate (c.nmax - pre.length) 0 := by
    refine List.ext_getElem (by simp) fun i hi _ => ?_
    rw [List.length_drop, Vector.length_toList] at hi
    rw [List.getElem_drop, Vector.getElem_toList, List.getElem_replicate]
    exact hzero _ (by omega) (by rw [h.cnt]; omega)
  have hsplit := List.take_append_drop pre.length e.rx.accWords.toList
  rw [h.words, hdrop] at hsplit
  exact accData_of_toList hsplit.symm

/-- A payload word joins the words taken (R123). -/
theorem Accumulating.consumes (hc : c.wellFormed = true)
    (h : Accumulating e (.write channel timestamp address k shortData) pre) (hlt : pre.length < k.toNat)
    {inp : Inputs c} (hrst : inp.rst = false) (hf : inp.rxFrameActive = true) (dr : Draws c) :
    ∃ e' out, engineTick c e inp dr = .ok (e', out) ∧ out.rx = RxPorts.defaults dr ∧
      Accumulating e' (.write channel timestamp address k shortData) (pre ++ [inp.rxData]) := by
  have hcnt : e.rx.accCnt < k := BitVec.lt_def.mpr (h.cnt ▸ hlt)
  obtain ⟨e', out, htick, hrx, hout⟩ := h.tick hrst (handleWrite_consumes h.state hcnt hf) (dr := dr)
  refine ⟨e', out, htick, hout, h.inv.of_engineTick hc htick, ?_, ?_, ?_, ?_⟩
  · rw [hrx]; exact h.state
  · rw [hrx]; exact h.pkt
  · rw [hrx, toNat_add_one_of_lt hcnt, h.cnt, List.length_append, List.length_singleton]
  · have hmax : pre.length < c.nmax := hlt.trans_le (Nat.le_sub_one_of_lt k.isLt)
    rw [hrx, List.length_append, List.length_singleton, h.cnt, take_succ_setIfInBounds _ hmax, h.words]

/-- Payload words up to the declared count are all taken, with no command and no condition, by induction over
them. -/
theorem Accumulating.run (hc : c.wellFormed = true) {words : List (Word c)} {ticks : List (Inputs c × Draws c)}
    (h : Accumulating e (.write channel timestamp address k shortData) pre)
    (hlen : pre.length + words.length ≤ k.toNat) (hticks : carries words ticks) :
    ∃ e' outs, e.run ticks = .ok (e', outs) ∧ outs.length = ticks.length ∧ (∀ o ∈ outs, noReceiveOutput o.rx) ∧
      Accumulating e' (.write channel timestamp address k shortData) (pre ++ words) := by
  induction words generalizing e pre ticks with
  | nil =>
    obtain rfl := List.map_eq_nil_iff.mp hticks
    exact ⟨e, [], rfl, rfl, by simp, by rwa [List.append_nil]⟩
  | cons w words ih =>
    obtain ⟨inp, dr, rest, rfl, hrst, hf, rfl, hrest⟩ := carries_cons hticks
    rw [List.length_cons] at hlen
    obtain ⟨e', out, htick, hout, h'⟩ := h.consumes hc (by omega) hrst hf dr
    obtain ⟨e'', outs, hrun, houtsLen, houts, h''⟩ := ih h' (by simp; omega) hrest
    refine ⟨e'', out :: outs, run_cons htick hrun, by simp [houtsLen], ?_, by rwa [List.append_cons]⟩
    rw [List.forall_mem_cons, hout]
    exact ⟨noReceiveOutput_defaults dr, houts⟩

/-- A `HandlingWrite` state with a clear accumulator has taken no word. -/
theorem accumulating_nil {p : InPkt c} (he : e.Inv) (hs : e.rx.state = .handlingWrite)
    (hp : e.rx.pkt = some p) (hcnt : e.rx.accCnt = 0) : Accumulating e p [] :=
  ⟨he, hs, hp, by simp [hcnt], rfl⟩

end

end

/-- Settles O26: the `k` words are taken, and the tick after them submits what was taken. -/
theorem writeWithAllItsWordsIsIssuedOnce : Obligations.WriteWithAllItsWordsIsIssuedOnce := by
  intro c e channel timestamp address k shortData payload ticks inp dr hc he hs hp hcnt hlen hticks hrst
  obtain ⟨e', outs, hrun, houtsLen, houts, h⟩ :=
    (accumulating_nil he hs hp hcnt).run hc (by simp [hlen]) hticks
  rw [List.nil_append] at h
  have hk : e'.rx.accCnt = k := BitVec.eq_of_toNat_eq (h.cnt.trans hlen)
  obtain ⟨e'', out, htick, hrx, hout⟩ := h.tick hrst (handleWrite_submits hk) (dr := dr)
  rw [h.accData_eq] at hout
  exact ⟨e'', outs, out, run_append hrun (run_cons htick rfl), houtsLen, houts, hout, by simp [hrx]⟩

/-- Settles O27: the words the frame carries are taken, and the tick of the drop truncates. -/
theorem writeWithFewerWordsIsNeverIssued : Obligations.WriteWithFewerWordsIsNeverIssued := by
  intro c e channel timestamp address k shortData payload ticks inp dr hc he hs hp hcnt hlen hticks hrst hf
  obtain ⟨e', outs, hrun, houtsLen, houts, h⟩ :=
    (accumulating_nil he hs hp hcnt).run hc (by simpa using hlen.le) hticks
  rw [List.nil_append] at h
  have hlt : e'.rx.accCnt < k := BitVec.lt_def.mpr (h.cnt ▸ hlen)
  obtain ⟨e'', out, htick, hrx, hout⟩ := h.tick hrst (handleWrite_truncates hlt hf) (dr := dr)
  exact ⟨e'', outs, out, run_append hrun (run_cons htick rfl), houtsLen, houts, hout, by simp [hrx]⟩

end Sys2Proof.Machine
end

section
/-! Receive Dispatch (42_receive_dispatch.md): what each packet's rule yields in the tick that completes it and in its
handling state, the tick of the host's state and of the engine that runs it, and what holds of every receive tick. -/

namespace Sys2Proof.Machine
open Claims

section
variable {c : Config}

/-! ### The rule of a packet in the tick that completes it (R142, R145) -/

/-- The tick that completes a packet enters the packet's state; only EchoRequest has an effect in it. -/
theorem receiveAs_completes {s : RxRegs c} (hs : s.state = .idle) (p : InPkt c) (inp : Inputs c) (dr : Draws c) :
    receiveAs p (rxPacket p) s inp dr =
      { regs :=
          { s with
            framePrev := inp.rxFrameActive, asmBusy := false, asmIdx := if s.asmBusy then 0 else s.asmIdx
            pkt := some p, state := entered p.type }
        ports := .defaults dr
        sig := { RxSignals.quiet with echoSet := decide (p.type = .echoRequest) } } := by
  rw [receiveAs_idle hs, rxPacket_idle hs]
  cases p <;> rfl

/-! ### The rule of a packet in its handling state (R146 to R150) -/

section
variable {s : RxRegs c} {inp : Inputs c} {dr : Draws c}

theorem rxPacket_handlingSetTime (hs : s.state = .handlingSetTime) (timestamp : BitVec Config.wTs) :
    rxPacket (.setTime timestamp) (handlingTick s inp dr) =
      { regs := { s with framePrev := inp.rxFrameActive, state := .idle }
        ports := { RxPorts.defaults dr with tscLoad := true, tscValue := timestamp }
        sig := .quiet } := by
  simp only [rxPacket, rxSetTime, handlingTick, hs]
  rfl

theorem rxPacket_handlingReset_phy (hs : s.state = .handlingReset) :
    rxPacket (.reset 1) (handlingTick s inp dr) =
      { regs := { s with framePrev := inp.rxFrameActive, state := .idle }
        ports := { RxPorts.defaults dr with resetPhyOut := true }
        sig := .quiet } := by
  simp only [rxPacket, rxReset, handlingTick, hs]
  rfl

theorem rxPacket_handlingReset_full (hs : s.state = .handlingReset) :
    rxPacket (.reset 0) (handlingTick s inp dr) =
      { regs := { s with framePrev := inp.rxFrameActive, state := .idle }
        ports := { RxPorts.defaults dr with resetOut := true }
        sig := { RxSignals.quiet with softReset := true } } := by
  simp only [rxPacket, rxReset, handlingTick, hs]
  rfl

theorem rxPacket_handlingWrite (hs : s.state = .handlingWrite) (channel : BitVec c.wCh) (timestamp : BitVec c.wWts)
    (address : BitVec c.wAddr) (k : BitVec c.wExtra) (shortData : BitVec c.wShort) :
    rxPacket (.write channel timestamp address k shortData) (handlingTick s inp dr) =
      handleWrite channel timestamp address k shortData (handlingTick s inp dr) := by
  simp only [rxPacket, rxWrite, handlingTick, hs]

theorem rxPacket_handlingBufferSpaceRequest (hs : s.state = .handlingBufferSpaceRequest) :
    rxPacket .bufferSpaceRequest (handlingTick s inp dr) =
      { regs := { s with framePrev := inp.rxFrameActive, state := .idle }
        ports := .defaults dr
        sig := { RxSignals.quiet with bsSet := true, bsUpdate := some inp.ioBufferSpace } } := by
  simp only [rxPacket, rxBufferSpaceRequest, handlingTick, hs]
  rfl

theorem rxPacket_handlingReadRequest (hs : s.state = .handlingReadRequest) (channel : BitVec c.wCh)
    (timeout : BitVec c.wTimeout) :
    rxPacket (.readRequest channel timeout) (handlingTick s inp dr) =
      { regs := { s with framePrev := inp.rxFrameActive, state := .idle }
        ports :=
          { RxPorts.defaults dr with
            ioCmd := .read, ioChannel := channel, ioTimestamp := timeout.setWidth c.wIoTs }
        sig := { RxSignals.quiet (c := c) with rrLoad := some (channel, timeout) } } := by
  simp only [rxPacket, rxReadRequest, handlingTick, hs]
  rfl

/-- Under I4 a handling state holds the packet it is entered with. -/
theorem RxRegs.Inv.exists_handled (hs : s.Inv) (hi : s.state ≠ .idle) :
    ∃ p, s.pkt = some p ∧ s.state = entered p.type := by
  obtain ⟨T, hT, hstate⟩ : ∃ T, s.state.handles = some T ∧ s.state = entered T := by
    cases h : s.state with
    | idle => exact absurd h hi
    | _ => exact ⟨_, rfl, rfl⟩
  obtain ⟨p, hp, rfl⟩ := hs.handling T hT
  exact ⟨p, hp, hstate⟩

/-- Under the invariants a handling state runs the rule of the packet it holds, over a quiet assembler (R143). -/
theorem receive_handling (hs : s.Inv) (hi : s.state ≠ .idle) (inp : Inputs c) (dr : Draws c) :
    ∃ p, s.pkt = some p ∧ s.state = entered p.type ∧
      receive s inp dr = .ok (rxPacket p (handlingTick s inp dr)) := by
  obtain ⟨p, hp, hstate⟩ := hs.exists_handled hi
  have hcur : rxCurrent s inp = some p := by
    by_cases hb : s.state = .handlingBufferSpaceRequest
    · cases p with
      | bufferSpaceRequest => exact rxCurrent_bufferSpaceRequest hb
      | _ => cases hstate.symm.trans hb
    · rw [rxCurrent_handling hi hb, hp]
  refine ⟨p, hp, hstate, ?_⟩
  rw [receive_some dr hcur, assemble_handling hs hi]
  rfl

/-- Every packet but Write leaves its handling state at once, and writes no other register in it (R143). -/
theorem rxPacket_handling_regs {p : InPkt c} (hs : s.state = entered p.type) (hi : s.state ≠ .idle)
    (hw : s.state ≠ .handlingWrite) :
    (rxPacket p (handlingTick s inp dr)).regs = { s with framePrev := inp.rxFrameActive, state := .idle } := by
  cases p with
  | echoRequest => exact absurd hs hi
  | setTime timestamp => rw [rxPacket_handlingSetTime hs]
  | reset phy =>
    obtain rfl | rfl : phy = 0 ∨ phy = 1 := BitVec.eq_zero_or_eq_one phy
    · rw [rxPacket_handlingReset_full hs]
    · rw [rxPacket_handlingReset_phy hs]
  | write => exact absurd hs hw
  | bufferSpaceRequest => rw [rxPacket_handlingBufferSpaceRequest hs]
  | readRequest channel timeout => rw [rxPacket_handlingReadRequest hs]

end

/-! ### The shared registers after the signals of one packet (45_tick_and_flow_control.md R218 to R221) -/

section
variable (f : FlowRegs c) (t : TxSignals)

theorem mergeFlow_echoSet (b : Bool) :
    mergeFlow f { RxSignals.quiet with echoSet := b } t = { flowQuiet f t with echoReq := b } := by
  rw [← mergeFlow_quiet]
  rfl

theorem mergeFlow_softReset :
    mergeFlow f { RxSignals.quiet with softReset := true } t =
      { bufferSpace := f.bufferSpace, bsReq := false, rr := { channel := 0, timeout := 0, pending := false }
        echoReq := false } := by
  simp [mergeFlow, mergeBufferSpace, mergeBsReq, mergeReadSlot, RxSignals.quiet]

/-- The set wins over the reply side's clear. -/
theorem mergeFlow_bsSet (space : BitVec Config.wSpace) :
    mergeFlow f { RxSignals.quiet with bsSet := true, bsUpdate := some space } t =
      { flowQuiet f t with bsReq := true, bufferSpace := space } := by
  rw [← mergeFlow_quiet]
  rfl

/-- The load wins over the reply side's clear. -/
theorem mergeFlow_rrLoad (channel : BitVec c.wCh) (timeout : BitVec c.wTimeout) :
    mergeFlow f { RxSignals.quiet (c := c) with rrLoad := some (channel, timeout) } t =
      { flowQuiet f t with rr := { channel := channel, timeout := timeout, pending := true } } := by
  rw [← mergeFlow_quiet]
  rfl

end

/-! ### The commands, pulses and conditions of a receive tick (R152) -/

/-- The assembler raises at most one condition in a tick (40_packet_assembler.md R109). -/
theorem assemble_conditions (s : RxRegs c) (inp : Inputs c) :
    (assemble s inp).unknownType = false ∨ (assemble s inp).truncated = false := by
  rcases assemble_cases (rfl : assemble s inp = _) with
    ⟨-, ha⟩ | ⟨-, -, -, -, ⟨-, ha⟩ | ⟨T, -, -, ha⟩ | ⟨T, -, -, ha⟩⟩ | ⟨-, -, -, ha⟩ | ⟨-, -, -, ha⟩ |
      ⟨-, -, ha⟩ <;>
    rw [ha]
  case inr.inr.inr.inr => exact .inl rfl
  all_goals exact .inr rfl

/-- A tick with a quiet dispatch asserts what the assembler raises. -/
theorem receiveOutputs_base_le_one {s : RxRegs c} {inp : Inputs c} {dr : Draws c} :
    receiveOutputs (RxTick.mk s (assemble s inp) inp dr).base.ports ≤ 1 := by
  have hone : (assemble s inp).unknownType.toNat + (assemble s inp).truncated.toNat ≤ 1 := by
    rcases assemble_conditions s inp with h | h <;> simp [h, Bool.toNat_le]
  simpa [receiveOutputs, RxPorts.defaults] using hone

/-- A `HandlingWrite` tick within the declared count asserts nothing, PacketTruncated or the write command. -/
theorem receiveOutputs_handleWrite_le_one {s : RxRegs c} {inp : Inputs c} {dr : Draws c} {channel : BitVec c.wCh}
    {timestamp : BitVec c.wWts} {address : BitVec c.wAddr} {k : BitVec c.wExtra} {shortData : BitVec c.wShort}
    (hs : s.state = .handlingWrite) (hk : s.accCnt ≤ k) :
    receiveOutputs (handleWrite channel timestamp address k shortData (handlingTick s inp dr)).ports ≤ 1 := by
  by_cases hlt : s.accCnt < k
  · cases hf : inp.rxFrameActive with
    | true => rw [handleWrite_consumes hs hlt hf]; exact Nat.zero_le 1
    | false => rw [handleWrite_truncates hlt hf]; exact le_refl 1
  · rw [handleWrite_submits (BitVec.le_antisymm hk (BitVec.not_lt.mp hlt))]
    exact le_refl 1

/-- A handling state asserts at most the one output of its packet's rule. -/
theorem receiveOutputs_handling_le_one {s : RxRegs c} {inp : Inputs c} {dr : Draws c} {p : InPkt c} (hs : s.Inv)
    (hi : s.state ≠ .idle) (hp : s.pkt = some p) (hstate : s.state = entered p.type) :
    receiveOutputs (rxPacket p (handlingTick s inp dr)).ports ≤ 1 := by
  cases p with
  | echoRequest => exact absurd hstate hi
  | setTime timestamp => rw [rxPacket_handlingSetTime hstate]; exact le_refl 1
  | reset phy =>
    obtain rfl | rfl : phy = 0 ∨ phy = 1 := BitVec.eq_zero_or_eq_one phy
    · rw [rxPacket_handlingReset_full hstate]; exact le_refl 1
    · rw [rxPacket_handlingReset_phy hstate]; exact le_refl 1
  | write channel timestamp address k shortData =>
    rw [rxPacket_handlingWrite hstate]
    exact receiveOutputs_handleWrite_le_one hstate (hs.accumulating _ _ _ _ _ hstate hp).1
  | bufferSpaceRequest => rw [rxPacket_handlingBufferSpaceRequest hstate]; exact Nat.zero_le 1
  | readRequest channel timeout => rw [rxPacket_handlingReadRequest hstate]; exact le_refl 1

/-- Under the invariants every tick of the receive process asserts at most one output. -/
theorem receiveOutputs_receive_le_one {s : RxRegs c} (hs : s.Inv) {inp : Inputs c} {dr : Draws c} {r : RxResult c}
    (h : receive s inp dr = .ok r) : receiveOutputs r.ports ≤ 1 := by
  by_cases hi : s.state = .idle
  · rw [receive_idle hi rfl] at h
    obtain rfl := Except.ok.inj h
    exact receiveOutputs_base_le_one
  · obtain ⟨p, hp, hstate, hr⟩ := receive_handling hs hi inp dr
    obtain rfl := Except.ok.inj (hr.symm.trans h)
    exact receiveOutputs_handling_le_one hs hi hp hstate

end

/-! ### The host's tick of an inbound packet -/

section
variable {s : State} {p : InPkt Config.dflt} {rx : RxRegs Config.dflt} {ports : RxPorts Config.dflt}
  {sig : RxSignals Config.dflt}

/-- The whole next state of an inbound packet's tick, by what the packet's rule yields. -/
theorem exec_inbound (hrst : s.nextInputs.rst = false) (htx : s.eng.tx.Inv)
    (hr : receiveAs p (rxPacket p) s.eng.rx s.nextInputs s.draws = { regs := rx, ports := ports, sig := sig }) :
    ∃ t, replyOf s = .ok t ∧
      exec (Instr.ofIn p) s = .next (afterInbound s rx (mergeFlow s.eng.flow sig t.sig) ports t) := by
  obtain ⟨t, ht⟩ := reply_ok htx s.eng.flow s.nextInputs s.draws
  exact ⟨t, ht, (exec_ofIn s p).trans (inboundTick_of hrst hr ht)⟩

/-- The whole next state of the tick that completes a packet (R142, R145). -/
theorem exec_completes (hrst : s.nextInputs.rst = false) (htx : s.eng.tx.Inv) (hs : s.eng.rx.state = .idle)
    (p : InPkt Config.dflt) :
    ∃ t, replyOf s = .ok t ∧
      exec (Instr.ofIn p) s = .next (afterInbound s
        { s.eng.rx with
          framePrev := s.nextInputs.rxFrameActive, asmBusy := false
          asmIdx := if s.eng.rx.asmBusy then 0 else s.eng.rx.asmIdx
          pkt := some p, state := entered p.type }
        { flowQuiet s.eng.flow t.sig with echoReq := decide (p.type = .echoRequest) }
        (.defaults s.draws) t) := by
  simpa only [mergeFlow_echoSet] using exec_inbound hrst htx (receiveAs_completes hs p _ _)

/-- The whole next state of a tick of a handling state (R143), by what the packet's rule yields in it. -/
theorem exec_handling (hrst : s.nextInputs.rst = false) (htx : s.eng.tx.Inv) (hi : s.eng.rx.state ≠ .idle)
    (hb : s.eng.rx.asmBusy = false)
    (hr : rxPacket p (handlingTick s.eng.rx s.nextInputs s.draws) = { regs := rx, ports := ports, sig := sig }) :
    ∃ t, replyOf s = .ok t ∧
      exec (Instr.ofIn p) s = .next (afterInbound s rx (mergeFlow s.eng.flow sig t.sig) ports t) :=
  exec_inbound hrst htx ((receiveAs_handling hi hb p (rxPacket p) _ _).trans hr)

end

/-! ### The obligations -/

/-- Settles O56: `step` runs `exec` where there is a current instruction. -/
theorem stepRunsTheCurrentInstruction : Obligations.StepRunsTheCurrentInstruction := by
  intro s i hi
  simp only [step, hi]

/-- Settles O17: the tick that completes an EchoRequest asserts `echo_set` and enters `Idle`. -/
theorem echoRequestSetsTheHandshake : Obligations.EchoRequestSetsTheHandshake := by
  intro s hrst htx hs
  obtain ⟨t, ht, hexec⟩ := exec_completes hrst htx hs .echoRequest
  exact ⟨t, ht, by simpa [Instr.ofIn, InPkt.type, entered, hs] using hexec⟩

/-- Settles O18: of the packets only EchoRequest asserts a signal in the tick that completes it. -/
theorem completedPacketEntersItsHandlingState : Obligations.CompletedPacketEntersItsHandlingState := by
  intro s p hp hrst htx hs
  obtain ⟨t, ht, hexec⟩ := exec_completes hrst htx hs p
  rw [decide_eq_false hp] at hexec
  exact ⟨t, ht, hexec⟩

/-- Settles O19: the rule pulses the load and asserts no signal. -/
theorem setTimeLoadsTheTimestampCounter : Obligations.SetTimeLoadsTheTimestampCounter := by
  intro s timestamp hrst htx hs hb
  simpa only [mergeFlow_quiet, Instr.ofIn] using
    exec_handling hrst htx (by simp [hs]) hb (rxPacket_handlingSetTime hs timestamp)

/-- Settles O20: the rule pulses `reset_phy_out` and asserts no signal. -/
theorem phyResetOnlyPulses : Obligations.PhyResetOnlyPulses := by
  intro s hrst htx hs hb
  simpa only [mergeFlow_quiet, Instr.ofIn] using
    exec_handling hrst htx (by simp [hs]) hb (rxPacket_handlingReset_phy hs)

/-- Settles O21: the rule pulses `reset_out` and asserts the soft reset, which no other signal meets. -/
theorem fullResetPulsesAndClearsTheLatches : Obligations.FullResetPulsesAndClearsTheLatches := by
  intro s hrst htx hs hb
  simpa only [mergeFlow_softReset, Instr.ofIn] using
    exec_handling hrst htx (by simp [hs]) hb (rxPacket_handlingReset_full hs)

/-- Settles O28: the rule asserts the set and the snapshot, and the set wins. -/
theorem bufferSpaceRequestSetsAndSnapshots : Obligations.BufferSpaceRequestSetsAndSnapshots := by
  intro s hrst htx hs hb
  simpa only [mergeFlow_bsSet, Instr.ofIn] using
    exec_handling hrst htx (by simp [hs]) hb (rxPacket_handlingBufferSpaceRequest hs)

/-- Settles O29: the rule submits the read and asserts the load, which wins; at the defaults the timeout is as wide
as the timestamp port. -/
theorem readRequestLoadsTheSlotAndSubmits : Obligations.ReadRequestLoadsTheSlotAndSubmits := by
  intro s channel timeout hrst htx hs hb
  obtain ⟨t, ht, hexec⟩ :=
    exec_handling hrst htx (by simp [hs]) hb (rxPacket_handlingReadRequest hs channel timeout)
  rw [mergeFlow_rrLoad, show timeout.setWidth Config.dflt.wIoTs = timeout from timeout.setWidth_eq] at hexec
  exact ⟨t, ht, hexec⟩

/-- Settles O30: the handling state runs the rule of its packet, which goes back to `Idle`. -/
theorem nonWriteHandlingLastsOneTick : Obligations.NonWriteHandlingLastsOneTick := by
  intro c e inp dr hrst he hi hw
  obtain ⟨p, -, hstate, hr⟩ := receive_handling he.rx hi inp dr
  obtain ⟨t, ht⟩ := reply_ok he.tx e.flow inp dr
  exact ⟨_, _, engineTick_of hrst hr ht, rxPacket_handling_regs hstate hi hw⟩

/-- Settles O31: without `rst` both ticks take the receive side from one run of the receive process; the reset step
reads no register. -/
theorem receiveNeverReadsTheReplyProcess : Obligations.ReceiveNeverReadsTheReplyProcess := by
  intro c e₁ e₂ e₁' e₂' inp dr o₁ o₂ hrx h₁ h₂
  rcases engineTick_cases h₁ with ⟨hrst₁, rfl, rfl⟩ | ⟨hrst₁, r₁, t₁, hr₁, -, rfl, rfl⟩ <;>
    rcases engineTick_cases h₂ with ⟨hrst₂, rfl, rfl⟩ | ⟨hrst₂, r₂, t₂, hr₂, -, rfl, rfl⟩
  · exact ⟨rfl, rfl⟩
  · cases hrst₁.symm.trans hrst₂
  · cases hrst₁.symm.trans hrst₂
  · rw [hrx] at hr₁
    obtain rfl := Except.ok.inj (hr₁.symm.trans hr₂)
    exact ⟨rfl, rfl⟩

/-- Settles O32: the reset step asserts nothing, and a receive tick at most one output. -/
theorem atMostOneReceiveOutputPerTick : Obligations.AtMostOneReceiveOutputPerTick := by
  intro c e e' inp dr out he h
  rcases engineTick_cases h with ⟨-, -, rfl⟩ | ⟨-, r, t, hr, -, -, rfl⟩
  · exact Nat.zero_le 1
  · exact receiveOutputs_receive_le_one he.rx hr

end Sys2Proof.Machine
end

section
/-! Reply Generation (43_reply_generation.md): the reply an `Idle` tick takes up, the words a reply state sends, and the
runs from a pending request to its answer while the receive link is idle. -/

namespace Sys2Proof.Machine
open Claims

section
variable {c : Config}

/-! ### The reply an `Idle` tick chooses (R170, R171) -/

section
variable {flow : FlowRegs c} {inp : Inputs c} {dr : Draws c}

theorem chooseReply_echo (he : flow.echoReq = true) : chooseReply flow inp dr = some .echoReply := by
  simp [chooseReply, he]

theorem chooseReply_bufferSpace (he : flow.echoReq = false) (hb : flow.bsReq = true) :
    chooseReply flow inp dr = some (.bufferSpaceReply flow.bufferSpace) := by
  simp [chooseReply, he, hb]

theorem chooseReply_read (he : flow.echoReq = false) (hb : flow.bsReq = false) (hr : flow.rr.pending = true)
    (hp : inp.ioStatusPending = false) : chooseReply flow inp dr = some (readReply inp dr) := by
  simp [chooseReply, he, hb, hr, hp]

theorem chooseReply_none (he : flow.echoReq = false) (hb : flow.bsReq = false)
    (hr : flow.rr.pending = false ∨ inp.ioStatusPending = true) : chooseReply flow inp dr = none := by
  rcases hr with hr | hr <;> simp [chooseReply, he, hb, hr]

end

/-! ### The reply process in `Idle` (R171 to R176) -/

/-- The registers of the reply process once it has taken up `q`. -/
def takenUp (q : OutPkt c) : TxRegs c where
  state := replyState q
  emPkt := some q
  emIdx := 0

/-- What the reply process yields in the `Idle` tick that takes up `q`. -/
def takesUp (dr : Draws c) (q : OutPkt c) : TxResult c where
  regs := takenUp q
  ports := .defaults dr
  sig := { bsClear := clearsBs q, rrClear := clearsRr q }

theorem replyState_ne_idle (q : OutPkt c) : replyState q ≠ .idle := by
  cases q with
  | readReplyNoEvent overflow => simp only [replyState]; split <;> simp
  | _ => simp [replyState]

/-- The one bit of a ReadReplyNoEvent tells its two states apart (R174, R175). -/
theorem noEventState_eq_replyState (overflow : BitVec Config.wOvf) :
    noEventState overflow = replyState (.readReplyNoEvent overflow : OutPkt c) := by
  obtain rfl | rfl : overflow = 0 ∨ overflow = 1 := BitVec.eq_zero_or_eq_one overflow <;> rfl

theorem txPacket_takesUp {t : TxTick c} (hs : t.s.state = .idle) (q : OutPkt c) : txPacket q t = takesUp t.dr q := by
  rw [txPacket_idle hs]
  cases q with
  | readReplyNoEvent overflow => simp only [noEventState_eq_replyState (c := c)]; rfl
  | _ => rfl

/-- An `Idle` tick takes up the reply it chooses, and waits where it chooses none. -/
theorem reply_idle {s : TxRegs c} (hs : s.state = .idle) (flow : FlowRegs c) (inp : Inputs c) (dr : Draws c) :
    reply s flow inp dr = .ok ((chooseReply flow inp dr).elim (txIdle ⟨s, dr⟩) (takesUp dr)) := by
  cases hq : chooseReply flow inp dr with
  | none => simp only [reply, (txCurrent_idle hs).trans hq, txNoPacket, hs, Option.elim]
  | some q => rw [reply_some ((txCurrent_idle hs).trans hq), txPacket_takesUp hs]; rfl

/-- With no request pending an `Idle` tick waits. -/
theorem reply_waits {s : TxRegs c} (hs : s.state = .idle) {flow : FlowRegs c} (he : flow.echoReq = false)
    (hb : flow.bsReq = false) (hr : flow.rr.pending = false) (inp : Inputs c) (dr : Draws c) :
    reply s flow inp dr = .ok (txIdle ⟨s, dr⟩) := by
  rw [reply_idle hs, chooseReply_none he hb (.inl hr)]
  rfl

/-- An `Idle` tick of the reply process leaves the link idle (44_packet_emitter.md R203). -/
theorem ports_of_reply_idle {s : TxRegs c} (hs : s.state = .idle) {flow : FlowRegs c} {inp : Inputs c} {dr : Draws c}
    {t : TxResult c} (h : reply s flow inp dr = .ok t) : t.ports = .defaults dr := by
  rw [reply_idle hs] at h
  obtain rfl := Except.ok.inj h
  cases chooseReply flow inp dr <;> rfl

/-- A tick of the engine with the reply process in `Idle`, by the reply it chooses. -/
theorem engineTick_txIdle {e : Engine c} {inp : Inputs c} (dr : Draws c) (hrst : inp.rst = false) (hrx : e.rx.Inv)
    (hs : e.tx.state = .idle) :
    ∃ e' out, engineTick c e inp dr = .ok (e', out) ∧ out.tx = .defaults dr ∧
      e'.tx = (chooseReply e.flow inp dr).elim { e.tx with state := .idle, emIdx := 0 } takenUp := by
  obtain ⟨r, hr⟩ := receive_ok hrx inp dr
  have ht := reply_idle hs e.flow inp dr
  refine ⟨_, _, engineTick_of hrst hr ht, ports_of_reply_idle hs ht, ?_⟩
  cases chooseReply e.flow inp dr <;> rfl

/-- The reply that reports a read has one of the three read states (R174 to R176). -/
theorem replyState_readReply (inp : Inputs c) (dr : Draws c) :
    replyState (readReply inp dr) = .readTimeout ∨ replyState (readReply inp dr) = .readOverflow ∨
      replyState (readReply inp dr) = .read := by
  unfold readReply
  cases readOutcome inp dr with
  | timeout => exact .inl rfl
  | overflow => exact .inr (.inl rfl)
  | ok => exact .inr (.inr rfl)

/-! ### The reply process in a reply state (R178; 44_packet_emitter.md R201, R202) -/

/-- At a word of the packet a tick of a reply state sends it and moves on, or after the last one returns to `Idle`. -/
theorem txEmit_of_lt {q : OutPkt c} {t : TxTick c} (h : t.s.emIdx < c.lenOut q.type) :
    txEmit q t =
      { regs :=
          if t.s.emIdx + 1 = c.lenOut q.type then { t.s with state := .idle, emIdx := 0 }
          else { t.s with emIdx := t.s.emIdx + 1 }
        ports := emitPorts q t.s.emIdx
        sig := .quiet } := by
  by_cases hlast : t.s.emIdx + 1 = c.lenOut q.type
  · rw [txEmit, if_pos hlast, if_pos hlast]
  · rw [txEmit, if_neg hlast, if_neg hlast, if_pos (by omega)]

/-- In a reply state the packet is kept, the state is kept or is `Idle`, and no latch is cleared. -/
theorem reply_emitting {s : TxRegs c} (hs : s.state ≠ .idle) {flow : FlowRegs c} {inp : Inputs c} {dr : Draws c}
    {t : TxResult c} (h : reply s flow inp dr = .ok t) :
    t.regs.emPkt = s.emPkt ∧ (t.regs.state = s.state ∨ t.regs.state = .idle) ∧ t.sig = .quiet := by
  rcases reply_cases h with ⟨hi, -⟩ | ⟨hi, -⟩ | ⟨-, q, -, -, rfl⟩ | ⟨-, q, -, -, rfl⟩ | ⟨-, q, -, -, rfl⟩
  · exact absurd hi hs
  · exact absurd hi hs
  · exact ⟨rfl, .inr rfl, rfl⟩
  · exact ⟨rfl, .inl rfl, rfl⟩
  · exact ⟨rfl, .inl rfl, rfl⟩

/-- The tick of the last word drives the frame and goes back to `Idle` (44_packet_emitter.md R202). -/
theorem idle_of_lastWord {s : TxRegs c} {flow : FlowRegs c} {inp : Inputs c} {dr : Draws c} {t : TxResult c}
    (h : reply s flow inp dr = .ok t) (hlast : t.ports.txLastWord = true) :
    t.ports.txFrameActive = true ∧ t.regs.state = .idle := by
  by_cases hi : s.state = .idle
  · rw [ports_of_reply_idle hi h] at hlast
    cases hlast
  rcases reply_cases h with ⟨hi', -⟩ | ⟨hi', -⟩ | ⟨-, q, -, -, rfl⟩ | ⟨-, q, -, hlt, rfl⟩ | ⟨-, q, -, hle, rfl⟩
  · exact absurd hi' hi
  · exact absurd hi' hi
  · exact ⟨rfl, rfl⟩
  · exact absurd (of_decide_eq_true hlast) hlt.ne
  · exact absurd (of_decide_eq_true hlast) (by omega)

/-- A tick of the engine with the reply process in `Idle` sends nothing, an `rst` tick included. -/
theorem frameInactive_of_txIdle {e e' : Engine c} {inp : Inputs c} {dr : Draws c} {out : Outputs c}
    (hs : e.tx.state = .idle) (h : engineTick c e inp dr = .ok (e', out)) : out.tx.txFrameActive = false := by
  rcases engineTick_cases h with ⟨-, -, rfl⟩ | ⟨-, r, t, -, ht, -, rfl⟩
  · rfl
  · simp only [ports_of_reply_idle hs ht, TxPorts.defaults]

/-! ### The shared registers -/

/-- The merge of 45_tick_and_flow_control.md R218 to R220, as one value: a set and a load win over the clears. -/
theorem mergeFlow_eq_flowAfter (f : FlowRegs c) (r : RxSignals c) (t : TxSignals) :
    mergeFlow f r t = flowAfter f r t.bsClear t.rrClear := by
  have hspace : mergeBufferSpace f.bufferSpace r = r.bsUpdate.getD f.bufferSpace := by
    cases h : r.bsUpdate <;> simp [mergeBufferSpace, h]
  have hbs : mergeBsReq f.bsReq r t = (r.bsSet || (f.bsReq && !t.bsClear && !r.softReset)) := by
    unfold mergeBsReq
    cases r.bsSet with
    | true => rfl
    | false => cases t.bsClear <;> cases r.softReset <;> simp
  have hrr : mergeReadSlot f.rr r t = (flowAfter f r t.bsClear t.rrClear).rr := by
    unfold mergeReadSlot flowAfter
    cases r.rrLoad with
    | some x => rfl
    | none => cases r.softReset <;> cases t.rrClear <;> simp
  simp only [mergeFlow, hspace, hbs, hrr]
  rfl

/-- Everything the receive process can signal in a tick: nothing, or the one handshake of its packet's rule
(42_receive_dispatch.md R145, R147, R149, R150). -/
theorem receive_sig {s : RxRegs c} {inp : Inputs c} {dr : Draws c} {r : RxResult c} (h : receive s inp dr = .ok r) :
    r.sig = .quiet ∨
    (rxCurrent s inp = some .echoRequest ∧ r.sig = { RxSignals.quiet with echoSet := true }) ∨
    (s.state = .handlingReset ∧ s.pkt = some (.reset 0) ∧ r.sig = { RxSignals.quiet with softReset := true }) ∨
    (s.state = .handlingBufferSpaceRequest ∧
      r.sig = { RxSignals.quiet with bsSet := true, bsUpdate := some inp.ioBufferSpace }) ∨
    (s.state = .handlingReadRequest ∧ ∃ channel timeout, s.pkt = some (.readRequest channel timeout) ∧
      r.sig = { RxSignals.quiet (c := c) with rrLoad := some (channel, timeout) }) := by
  obtain ⟨a, rfl, hr⟩ := receive_cases h
  rcases hr with ⟨-, -, rfl⟩ | ⟨hi, p, hd, rfl⟩ | ⟨-, v, -, rfl⟩ | ⟨hi, phy, hp, rfl⟩ |
    ⟨-, channel, timestamp, address, k, shortData, -, hw⟩ | ⟨hi, rfl⟩ | ⟨hi, channel, timeout, hp, rfl⟩ | ⟨-, -, -, rfl⟩
  · exact .inl rfl
  · rw [rxPacket_idle hi]
    cases p with
    | echoRequest => exact .inr (.inl ⟨(rxCurrent_idle hi).trans hd, rfl⟩)
    | _ => exact .inl rfl
  · exact .inl rfl
  · obtain rfl | rfl : phy = 0 ∨ phy = 1 := BitVec.eq_zero_or_eq_one phy
    · exact .inr (.inr (.inl ⟨hi, hp, rfl⟩))
    · exact .inl rfl
  · rcases handleWrite_cases hw with ⟨-, -, rfl⟩ | ⟨-, -, rfl⟩ | ⟨-, rfl⟩ | ⟨-, rfl⟩ <;> exact .inl rfl
  · exact .inr (.inr (.inr (.inl ⟨hi, rfl⟩)))
  · exact .inr (.inr (.inr (.inr ⟨hi, channel, timeout, hp, rfl⟩)))
  · exact .inl rfl

/-- In a tick that handles no full Reset, a latch the reply side does not clear keeps a pending request
(45_tick_and_flow_control.md R218, R220). -/
theorem pending_kept {e : Engine c} {inp : Inputs c} {dr : Draws c} {r : RxResult c}
    (h : receive e.rx inp dr = .ok r) (hreset : handlesFullReset e = false) :
    (e.flow.bsReq = true → (flowAfter e.flow r.sig false false).bsReq = true) ∧
      (e.flow.rr.pending = true → (flowAfter e.flow r.sig false false).rr.pending = true) := by
  rcases receive_sig h with hsig | ⟨-, hsig⟩ | ⟨hs, hp, -⟩ | ⟨-, hsig⟩ | ⟨-, channel, timeout, -, hsig⟩
  · simp [hsig, flowAfter, RxSignals.quiet]
  · simp [hsig, flowAfter, RxSignals.quiet]
  · simp [handlesFullReset, hs, hp] at hreset
  · simp [hsig, flowAfter, RxSignals.quiet]
  · simp [hsig, flowAfter, RxSignals.quiet]

/-- Only an EchoRequest packet asserts `echo_set` (42_receive_dispatch.md R145). -/
theorem echoSet_eq_false {s : RxRegs c} {inp : Inputs c} {dr : Draws c} {r : RxResult c}
    (h : receive s inp dr = .ok r) (hne : rxCurrent s inp ≠ some .echoRequest) : r.sig.echoSet = false := by
  rcases receive_sig h with hsig | ⟨hp, -⟩ | ⟨-, -, hsig⟩ | ⟨-, hsig⟩ | ⟨-, channel, timeout, -, hsig⟩
  · rw [hsig]; rfl
  · exact absurd hp hne
  · rw [hsig]; rfl
  · rw [hsig]; rfl
  · rw [hsig]; rfl

end

/-! ### The obligations of one tick -/

/-- Settles O33: the rule of the reply takes it up, beside a receive process that answers. -/
theorem chosenReplyIsCaptured : Obligations.ChosenReplyIsCaptured := by
  intro s q hrst hrx hs
  obtain ⟨r, hr⟩ := receive_ok hrx s.nextInputs s.draws
  refine ⟨r, hr, ?_⟩
  rw [exec_ofOut, outboundTick_of hrst hr (txPacket_takesUp hs q), mergeFlow_eq_flowAfter]
  rfl

/-- Settles O35: the choice of the tick in each of the four cases. -/
theorem idleTickChoosesByPriority : Obligations.IdleTickChoosesByPriority := by
  intro c e inp dr hrst hrx hs
  obtain ⟨e', out, htick, hout, htx⟩ := engineTick_txIdle dr hrst hrx hs
  refine ⟨e', out, htick, hout, fun he => ?_, fun he hb => ?_, fun he hb hr hp => ?_, fun he hb hr => ?_⟩
  · rw [htx, chooseReply_echo he]; rfl
  · rw [htx, chooseReply_bufferSpace he hb]; rfl
  · rw [htx, chooseReply_read he hb hr hp]; exact replyState_readReply inp dr
  · rw [htx, chooseReply_none he hb hr]; rfl

/-- Settles O36: the tick takes up the reply of the outcome; each pair of flags has one, both flags one per draw. -/
theorem resolvedReadGetsItsOutcomeReply : Obligations.ResolvedReadGetsItsOutcomeReply := by
  intro c e inp dr hrst hrx hread
  simp only [choosesRead, Bool.and_eq_true, Bool.not_eq_true', decide_eq_true_eq] at hread
  obtain ⟨⟨⟨⟨hs, he⟩, hb⟩, hr⟩, hp⟩ := hread
  obtain ⟨e', out, htick, -, htx⟩ := engineTick_txIdle dr hrst hrx hs
  refine ⟨e', out, htick, ?_⟩
  rw [htx, chooseReply_read he hb hr hp]
  cases ht : inp.ioStatusTimedOut <;> cases ho : inp.ioStatusOverflowed <;> cases hd : dr.choosesTimeout <;>
    simp [takenUp, readReply, readOutcome, replyState, ht, ho, hd]

/-- Settles O38: the last word's tick leaves the reply process in `Idle`, in which a tick sends nothing. -/
theorem repliesAreSeparatedByAGap : Obligations.RepliesAreSeparatedByAGap := by
  intro c e e' e'' inp inp' dr dr' out out' h h' hlast
  rcases engineTick_cases h with ⟨-, -, rfl⟩ | ⟨-, r, t, -, ht, rfl, rfl⟩
  · cases hlast
  · obtain ⟨hf, hi⟩ := idle_of_lastWord ht hlast
    exact ⟨hf, frameInactive_of_txIdle hi h'⟩

/-- Settles O40: the reply state emits, so the latches change by the receive process alone. -/
theorem noReplyIsChosenDuringEmission : Obligations.NoReplyIsChosenDuringEmission := by
  intro c e e' inp dr out hrst hs h
  rcases engineTick_cases h with ⟨hrst', -⟩ | ⟨-, r, t, hr, ht, rfl, -⟩
  · cases hrst.symm.trans hrst'
  obtain ⟨hpkt, hstate, hsig⟩ := reply_emitting hs ht
  rw [hsig, mergeFlow_eq_flowAfter]
  exact ⟨hpkt, hstate, echoSet_eq_false hr, fun hreset => (pending_kept hr hreset).1,
    fun hreset => (pending_kept hr hreset).2⟩

end Sys2Proof.Machine
end

section
/-! Runs with no frame on the receive link: the words of a reply once taken up, the order of pending replies
(43_reply_generation.md R181) and the answer to a request (R184). -/

namespace Sys2Proof.Machine
open Claims

section
variable {c : Config}

/-! ### A tick with no frame on the receive link -/

/-- A tick without `rst` in which the receive link carries no frame. -/
def Frameless (x : Inputs c × Draws c) : Prop := x.1.rst = false ∧ x.1.rxFrameActive = false

/-- The receive process waits for a frame: `Idle`, with no packet in progress. -/
def RxRegs.Waits (s : RxRegs c) : Prop := s.state = .idle ∧ s.asmBusy = false

/-- A waiting receive process without a frame only follows the frame. -/
theorem receive_frameless {s : RxRegs c} (hs : s.Waits) {inp : Inputs c} (hf : inp.rxFrameActive = false)
    (dr : Draws c) :
    receive s inp dr = .ok { regs := { s with framePrev := false }, ports := .defaults dr, sig := .quiet } := by
  obtain ⟨hi, hb⟩ := hs
  rw [receive_idle hi (assemble_quiet hb (.inr (.inl hf))) dr]
  simp [asmQuiet, stateAfter, hf, hi, RxSignals.quiet, RxPorts.defaults]

/-- The engine after a frameless tick with a waiting receive process whose reply process yields `t`. -/
def Engine.afterReply (e : Engine c) (t : TxResult c) : Engine c where
  rx := { e.rx with framePrev := false }
  tx := t.regs
  flow := flowQuiet e.flow t.sig

@[simp] theorem afterReply_flow (e : Engine c) (t : TxResult c) :
    (e.afterReply t).flow = flowQuiet e.flow t.sig := rfl

theorem engineTick_frameless {e : Engine c} (hrx : e.rx.Waits) {x : Inputs c × Draws c} (hx : Frameless x)
    {t : TxResult c} (ht : reply e.tx e.flow x.1 x.2 = .ok t) :
    engineTick c e x.1 x.2 = .ok (e.afterReply t, { rx := .defaults x.2, tx := t.ports }) := by
  rw [engineTick_of hx.1 (receive_frameless hrx hx.2 x.2) ht, mergeFlow_quiet]
  rfl

/-- The frameless `Idle` tick that chooses a reply takes it up. -/
theorem engineTick_takesUp {e : Engine c} (hrx : e.rx.Waits) (hs : e.tx.state = .idle) {x : Inputs c × Draws c}
    (hx : Frameless x) {q : OutPkt c} (hq : chooseReply e.flow x.1 x.2 = some q) :
    engineTick c e x.1 x.2 = .ok (e.afterReply (takesUp x.2 q), .defaults x.2) := by
  have ht := reply_idle hs e.flow x.1 x.2
  rw [hq] at ht
  exact engineTick_frameless hrx hx ht

/-! ### The words of a reply (44_packet_emitter.md R201, R202) -/

/-- The word `i` of a reply with its last-word mark, as a tick sends it. -/
def sentWord (q : OutPkt c) (i : Nat) : Option (Word c × Bool) :=
  some (wordAt c.ws q.bitString i, decide (i + 1 = c.lenOut q.type))

theorem frameOf_eq_map_sentWord (q : OutPkt c) : frameOf q = (List.range' 0 (c.lenOut q.type)).map (sentWord q) := by
  refine List.ext_getElem (by simp [frameOf]) fun i _ _ => ?_
  simp [frameOf, sentWord, encodeOut, splitWords]

/-- The engine after frameless ticks of a reply state: the reply process at `tx`, the latches kept
(43_reply_generation.md R178), the echo pulse over. -/
def Engine.emittedTo (e : Engine c) (tx : TxRegs c) : Engine c where
  rx := { e.rx with framePrev := false }
  tx := tx
  flow := { e.flow with echoReq := false }

@[simp] theorem emittedTo_tx (e : Engine c) (tx : TxRegs c) : (e.emittedTo tx).tx = tx := rfl
@[simp] theorem emittedTo_flow (e : Engine c) (tx : TxRegs c) :
    (e.emittedTo tx).flow = { e.flow with echoReq := false } := rfl

/-- A frameless tick of a reply state sends the next word and moves on, or after the last one returns to `Idle`. -/
theorem engineTick_emits {e : Engine c} (hrx : e.rx.Waits) (hs : e.tx.state ≠ .idle) {q : OutPkt c}
    (hq : e.tx.emPkt = some q) (hidx : e.tx.emIdx < c.lenOut q.type) {x : Inputs c × Draws c} (hx : Frameless x) :
    ∃ out, sent out = sentWord q e.tx.emIdx ∧
      engineTick c e x.1 x.2 = .ok (e.emittedTo
        (if e.tx.emIdx + 1 = c.lenOut q.type then { e.tx with state := .idle, emIdx := 0 }
          else { e.tx with emIdx := e.tx.emIdx + 1 }), out) := by
  have ht := reply_some ((txCurrent_emitting (flow := e.flow) (inp := x.1) (dr := x.2) hs).trans hq)
  rw [txPacket_emits hs, txEmit_of_lt hidx] at ht
  refine ⟨{ rx := .defaults x.2, tx := emitPorts q e.tx.emIdx }, rfl, ?_⟩
  rw [engineTick_frameless hrx hx ht]
  simp [Engine.afterReply, Engine.emittedTo, flowQuiet, TxSignals.quiet]

/-- The remaining words of a reply go out over frameless ticks, one a tick, by induction over the ticks. -/
theorem run_emission {q : OutPkt c} {ticks : List (Inputs c × Draws c)} (hticks : ∀ x ∈ ticks, Frameless x)
    (hne : ticks ≠ []) {e : Engine c} (hrx : e.rx.Waits) (hs : e.tx.state ≠ .idle) (hq : e.tx.emPkt = some q)
    (hlen : e.tx.emIdx + ticks.length = c.lenOut q.type) :
    ∃ outs, outs.map sent = (List.range' e.tx.emIdx ticks.length).map (sentWord q) ∧
      e.run ticks = .ok (e.emittedTo { e.tx with state := .idle, emIdx := 0 }, outs) := by
  induction ticks generalizing e with
  | nil => exact absurd rfl hne
  | cons x rest ih =>
    obtain ⟨hx, hrest⟩ := List.forall_mem_cons.mp hticks
    rw [List.length_cons] at hlen
    obtain ⟨out, hout, htick⟩ := engineTick_emits hrx hs hq (by omega) hx
    by_cases hr : rest = []
    · subst hr
      rw [if_pos (by simpa using hlen)] at htick
      exact ⟨[out], by simp [hout], run_cons htick rfl⟩
    · have hpos := List.length_pos_of_ne_nil hr
      rw [if_neg (by omega)] at htick
      obtain ⟨outs, houts, hrun⟩ :=
        ih hrest hr (e := e.emittedTo { e.tx with emIdx := e.tx.emIdx + 1 }) hrx hs hq
          (by simp only [emittedTo_tx]; omega)
      refine ⟨out :: outs, ?_, run_cons htick hrun⟩
      rw [List.map_cons, hout, houts]
      rfl

/-- A reply just taken up goes out whole over frameless ticks, and the reply process is `Idle` again. -/
theorem run_takenUp (hc : c.wellFormed = true) {e : Engine c} {q : OutPkt c} {emit : List (Inputs c × Draws c)}
    (hrx : e.rx.Waits) (htx : e.tx = takenUp q) (hemit : ∀ x ∈ emit, Frameless x)
    (hlen : emit.length = c.lenOut q.type) :
    ∃ outs, outs.map sent = frameOf q ∧ e.run emit = .ok (e.emittedTo { takenUp q with state := .idle }, outs) := by
  have hne : emit ≠ [] := List.ne_nil_of_length_pos (hlen ▸ one_le_lenOut hc q.type)
  obtain ⟨outs, houts, hrun⟩ := run_emission hemit hne hrx (q := q) (by rw [htx]; exact replyState_ne_idle q)
    (by rw [htx]; rfl) (by simp [htx, takenUp, hlen])
  refine ⟨outs, ?_, by rw [hrun, htx]; rfl⟩
  rw [houts, htx, frameOf_eq_map_sentWord, hlen]
  rfl

/-- A reply just taken up goes out, and the `Idle` tick after it takes up the next one that is pending. -/
theorem run_takenUp_takesUp (hc : c.wellFormed = true) {e : Engine c} {q q' : OutPkt c}
    {emit : List (Inputs c × Draws c)} {x : Inputs c × Draws c} (hrx : e.rx.Waits) (htx : e.tx = takenUp q)
    (hlen : emit.length = c.lenOut q.type) (hticks : ∀ y ∈ emit ++ [x], Frameless y)
    (hq' : chooseReply { e.flow with echoReq := false } x.1 x.2 = some q') :
    ∃ e' outs, e.run (emit ++ [x]) = .ok (e', outs) ∧ e'.rx.Waits ∧ e'.tx = takenUp q' ∧
      e'.flow = flowQuiet e.flow (takesUp x.2 q').sig := by
  obtain ⟨outs, -, hrun⟩ := run_takenUp hc hrx htx (fun y hy => hticks y (by simp [hy])) hlen
  have htick := engineTick_takesUp (e := e.emittedTo { takenUp q with state := .idle }) hrx rfl (hticks x (by simp)) hq'
  exact ⟨_, _, run_append hrun (run_cons htick rfl), hrx, rfl, rfl⟩

/-! ### From a request to its answer -/

theorem Engine.quiescent_iff (e : Engine c) :
    e.quiescent = true ↔ e.rx.Waits ∧ e.tx.state = .idle ∧
      e.flow.echoReq = false ∧ e.flow.bsReq = false ∧ e.flow.rr.pending = false := by
  simp [Engine.quiescent, RxRegs.Waits, and_assoc]

/-- The one pending request of an engine otherwise at rest is answered over frameless ticks: its reply is taken up,
then sent whole, and the engine is quiescent. -/
theorem run_answers (hc : c.wellFormed = true) {e : Engine c} (hrx : e.rx.Waits) (hs : e.tx.state = .idle)
    {x : Inputs c × Draws c} {emit : List (Inputs c × Draws c)} (hticks : ∀ y ∈ x :: emit, Frameless y) {q : OutPkt c}
    (hq : chooseReply e.flow x.1 x.2 = some q) (hlen : emit.length = c.lenOut q.type)
    (hbs : e.flow.bsReq = clearsBs q) (hrr : e.flow.rr.pending = clearsRr q) :
    ∃ e' outs, e.run (x :: emit) = .ok (e', outs) ∧ e'.quiescent = true ∧ outs.map sent = none :: frameOf q := by
  obtain ⟨hx, hemit⟩ := List.forall_mem_cons.mp hticks
  obtain ⟨outs, houts, hrun⟩ := run_takenUp hc (e := e.afterReply (takesUp x.2 q)) hrx rfl hemit hlen
  refine ⟨_, _, run_cons (engineTick_takesUp hrx hs hx hq) hrun, ?_, by rw [List.map_cons, houts]; rfl⟩
  refine (Engine.quiescent_iff _).mpr ⟨hrx, rfl, rfl, ?_, ?_⟩
  · simp [flowQuiet, takesUp, hbs]
  · simp [flowQuiet, takesUp, hrr]

/-- A packet with no field is one word (30_encoding.md R79; 00_scope.md R9 (a)). -/
theorem lenIn_eq_one (hc : c.wellFormed = true) {T : InType} (hT : c.layoutIn T = []) : c.lenIn T = 1 := by
  obtain ⟨hws, hh⟩ := one_le_ws_and_h hc
  have hle := h_le_ws hc
  rw [Config.lenIn, Config.bitsIn, hT, Config.wordsFor]
  exact Nat.div_eq_of_lt_le (by simp; omega) (by simp; omega)

/-- The one word of a packet without fields, at a quiescent engine before a frame: the packet completes, nothing is
sent, and the latches are clear but for the echo handshake of an EchoRequest. -/
theorem engineTick_request (hc : c.wellFormed = true) {e : Engine c} (he : e.quiescent = true)
    (hp : e.rx.framePrev = false) {x : Inputs c × Draws c} (hrst : x.1.rst = false) (hf : x.1.rxFrameActive = true)
    {T : InType} (hcode : headerCode c x.1.rxData = c.codeIn T) (hT : c.layoutIn T = []) :
    ∃ e' out, engineTick c e x.1 x.2 = .ok (e', out) ∧ sent out = none ∧
      e'.rx.state = entered T ∧ e'.rx.asmBusy = false ∧ e'.tx.state = .idle ∧
      e'.flow = { e.flow with echoReq := decide (T = .echoRequest) } := by
  obtain ⟨⟨hs, hb⟩, htx, hecho, hbs, hrr⟩ := (Engine.quiescent_iff e).mp he
  have ha := (assemble_header hb hs hf hp).trans
    (asmHeader_oneWord (hcode ▸ typeOfCodeIn_codeIn hc T) (lenIn_eq_one hc hT))
  have ht := reply_waits htx hecho hbs hrr x.1 x.2
  refine ⟨_, _, engineTick_of hrst (receive_idle hs ha x.2) ht, rfl, ?_, rfl, rfl, ?_⟩
  · simp [stateAfter, asmComplete]
  · simp [mergeFlow_echoSet, asmComplete, flowQuiet, txIdle, TxSignals.quiet]

/-- The frameless tick that handles a BufferSpaceRequest, with no other request pending: the latch is set, the buffer
space sampled, nothing is sent (42_receive_dispatch.md R149). -/
theorem engineTick_snapshot {e : Engine c} (hs : e.rx.state = .handlingBufferSpaceRequest)
    (hb : e.rx.asmBusy = false) (htx : e.tx.state = .idle) (hecho : e.flow.echoReq = false)
    (hbs : e.flow.bsReq = false) (hrr : e.flow.rr.pending = false) {x : Inputs c × Draws c} (hx : Frameless x) :
    ∃ e' out, engineTick c e x.1 x.2 = .ok (e', out) ∧ sent out = none ∧ e'.rx.Waits ∧ e'.tx.state = .idle ∧
      e'.flow = { e.flow with echoReq := false, bsReq := true, bufferSpace := x.1.ioBufferSpace } := by
  have hr : receive e.rx x.1 x.2 = .ok (rxPacket .bufferSpaceRequest (handlingTick e.rx x.1 x.2)) := by
    rw [receive_some x.2 (rxCurrent_bufferSpaceRequest hs), assemble_quiet hb (.inl (by simp [hs]))]
    rfl
  rw [rxPacket_handlingBufferSpaceRequest hs] at hr
  have ht := reply_waits htx hecho hbs hrr x.1 x.2
  refine ⟨_, _, engineTick_of hx.1 hr ht, rfl, ⟨rfl, hb⟩, rfl, ?_⟩
  simp [mergeFlow_bsSet, flowQuiet, txIdle, TxSignals.quiet]

end

/-! ### The obligations over runs -/

/-- Settles O39: each reply is chosen over those still pending, which the tick that takes it up and its emission
keep. -/
theorem priorityOrderOfThreePendingReplies : Obligations.PriorityOrderOfThreePendingReplies := by
  intro c e t₁ t₂ t₃ emit₁ emit₂ hc he hs hb htx hecho hbs hrr hlen₁ hlen₂ hticks hp
  have hquiet (x : Inputs c × Draws c) (hx : x = t₁ ∨ x ∈ emit₁ ++ [t₂] ∨ x ∈ emit₂ ++ [t₃]) : Frameless x :=
    hticks x (by simpa [or_assoc] using hx)
  have hrx : e.rx.Waits := ⟨hs, hb⟩
  have h₁ := engineTick_takesUp hrx htx (hquiet t₁ (.inl rfl)) (chooseReply_echo hecho)
  obtain ⟨e₂, o₂, h₂, hrx₂, htx₂, hflow₂⟩ := run_takenUp_takesUp hc (q := .echoReply)
    (e := e.afterReply (takesUp t₁.2 .echoReply)) hrx rfl hlen₁ (fun x hx => hquiet x (.inr (.inl hx)))
    (chooseReply_bufferSpace rfl (by simp [flowQuiet, takesUp, clearsBs, hbs]))
  obtain ⟨e₃, o₃, h₃, -, htx₃, -⟩ := run_takenUp_takesUp hc hrx₂ htx₂ hlen₂ (fun x hx => hquiet x (.inr (.inr hx)))
    (chooseReply_read rfl (by simp [hflow₂, flowQuiet, takesUp, clearsBs])
      (by simp [hflow₂, flowQuiet, takesUp, clearsRr, hrr]) hp)
  exact ⟨_, _, e₂, o₂, e₃, o₃, run_cons h₁ rfl, rfl, h₂, htx₂, h₃, by rw [htx₃]; rfl,
    by rw [htx₃]; exact replyState_ne_idle _⟩

/-- Settles O41: the request's tick leaves the echo handshake as the one request pending. -/
theorem echoRequestIsAnswered : Obligations.EchoRequestIsAnswered := by
  intro c e t₀ t₁ emit hc he hq hp hrst hf hcode hticks hlen
  obtain ⟨-, -, -, hbs, hrr⟩ := (Engine.quiescent_iff e).mp hq
  obtain ⟨e₁, out, htick, hout, hstate, hbusy, htx, hflow⟩ := engineTick_request hc hq hp hrst hf hcode rfl
  obtain ⟨e', outs, hrun, hquiet, houts⟩ := run_answers hc ⟨hstate, hbusy⟩ htx hticks
    (chooseReply_echo (by rw [hflow]; rfl)) hlen (by rw [hflow]; exact hbs) (by rw [hflow]; exact hrr)
  exact ⟨e', out :: outs, run_cons htick hrun, hquiet, by rw [List.map_cons, hout, houts]⟩

/-- Settles O42: the request's tick enters its handling state, whose tick samples the buffer space and leaves the
latch as the one request pending. -/
theorem bufferSpaceRequestIsAnswered : Obligations.BufferSpaceRequestIsAnswered := by
  intro c e t₀ t₁ t₂ emit hc he hq hp hrst hf hcode hticks hlen
  obtain ⟨h₁, hrest⟩ := List.forall_mem_cons.mp hticks
  obtain ⟨-, -, -, hbs, hrr⟩ := (Engine.quiescent_iff e).mp hq
  obtain ⟨e₁, out₁, htick₁, hout₁, hstate, hbusy, htx, hflow⟩ := engineTick_request hc hq hp hrst hf hcode rfl
  obtain ⟨e₂, out₂, htick₂, hout₂, hrx₂, htx₂, hflow₂⟩ :=
    engineTick_snapshot hstate hbusy htx (by rw [hflow]; rfl) (by rw [hflow]; exact hbs) (by rw [hflow]; exact hrr) h₁
  obtain ⟨e', outs, hrun, hquiet, houts⟩ := run_answers hc hrx₂ htx₂ hrest
    (chooseReply_bufferSpace (by rw [hflow₂]) (by rw [hflow₂])) hlen
    (by rw [hflow₂]; rfl) (by rw [hflow₂, hflow]; exact hrr)
  rw [hflow₂] at houts
  exact ⟨e', out₁ :: out₂ :: outs, run_cons htick₁ (run_cons htick₂ hrun), hquiet,
    by rw [List.map_cons, List.map_cons, hout₁, hout₂, houts]⟩

end Sys2Proof.Machine
end

section
/-! The Packet Emitter (44_packet_emitter.md): a tick of a reply state, and a whole reply, sent whatever the receive
process does beside it. -/

namespace Sys2Proof.Machine
open Claims

section
variable {c : Config}

/-! ### One word (R201, R202) -/

/-- The rule of a reply at a word of it: the word goes out, and no latch is cleared (43_reply_generation.md R178). -/
theorem txPacket_sendsWord {t : TxTick c} (hs : t.s.state ≠ .idle) {q : OutPkt c}
    (hidx : t.s.emIdx < c.lenOut q.type) :
    txPacket q t =
      { regs :=
          if t.s.emIdx + 1 = c.lenOut q.type then { t.s with state := .idle, emIdx := 0 }
          else { t.s with emIdx := t.s.emIdx + 1 }
        ports := emitPorts q t.s.emIdx
        sig := .quiet } :=
  (txPacket_emits hs q).trans (txEmit_of_lt hidx)

/-- The word a tick drives is the word `em_idx` of the encoding. -/
theorem emitPorts_eq_getD {q : OutPkt c} {idx : Nat} (hidx : idx < c.lenOut q.type) :
    emitPorts q idx =
      { txFrameActive := true, txData := (encodeOut q).getD idx 0
        txLastWord := decide (idx + 1 = c.lenOut q.type) } := by
  rw [encodeOut, getD_splitWords hidx]
  rfl

/-- A tick of the engine in a reply state, beside any receive process with the invariants. -/
theorem engineTick_sendsWord {e : Engine c} (hrx : e.rx.Inv) (hs : e.tx.state ≠ .idle) {q : OutPkt c}
    (hq : e.tx.emPkt = some q) (hidx : e.tx.emIdx < c.lenOut q.type) {x : Inputs c × Draws c}
    (hrst : x.1.rst = false) :
    ∃ e' out, engineTick c e x.1 x.2 = .ok (e', out) ∧ out.tx = emitPorts q e.tx.emIdx ∧
      e'.tx =
        if e.tx.emIdx + 1 = c.lenOut q.type then { e.tx with state := .idle, emIdx := 0 }
        else { e.tx with emIdx := e.tx.emIdx + 1 } := by
  obtain ⟨r, hr⟩ := receive_ok hrx x.1 x.2
  have ht := reply_some ((txCurrent_emitting (flow := e.flow) (inp := x.1) (dr := x.2) hs).trans hq)
  rw [txPacket_sendsWord hs hidx] at ht
  exact ⟨_, _, engineTick_of hrst hr ht, rfl, rfl⟩

/-! ### A whole reply (R205, R206) -/

/-- The remaining words of a reply go out one a tick, by induction over the ticks up to that of the last word. -/
theorem run_sendsWords (hc : c.wellFormed = true) {q : OutPkt c} {ticks : List (Inputs c × Draws c)}
    (hne : ticks ≠ []) (hrst : ∀ x ∈ ticks, x.1.rst = false) {e : Engine c} (he : e.Inv) (hs : e.tx.state ≠ .idle)
    (hq : e.tx.emPkt = some q) (hlen : e.tx.emIdx + ticks.length = c.lenOut q.type) :
    ∃ e' outs, e.run ticks = .ok (e', outs) ∧ e'.tx = { e.tx with state := .idle, emIdx := 0 } ∧
      outs.map (·.tx) = (List.range' e.tx.emIdx ticks.length).map (emitPorts q) := by
  induction ticks, hne using List.recNeNil generalizing e with
  | singleton x =>
    rw [List.length_singleton] at hlen
    obtain ⟨e', out, htick, hout, htx⟩ := engineTick_sendsWord he.rx hs hq (by omega) (hrst x (by simp))
    rw [if_pos hlen] at htx
    exact ⟨e', [out], run_cons htick rfl, htx, by simp [hout]⟩
  | cons x rest hne ih =>
    obtain ⟨hx, hrest⟩ := List.forall_mem_cons.mp hrst
    have hpos := List.length_pos_of_ne_nil hne
    rw [List.length_cons] at hlen
    obtain ⟨e₁, out, htick, hout, htx₁⟩ := engineTick_sendsWord he.rx hs hq (by omega) hx
    rw [if_neg (by omega)] at htx₁
    obtain ⟨e', outs, hrun, htx, houts⟩ :=
      ih hrest (he.of_engineTick hc htick) (by rwa [htx₁]) (by rwa [htx₁]) (by simp only [htx₁]; omega)
    refine ⟨e', out :: outs, run_cons htick hrun, by rw [htx, htx₁], ?_⟩
    rw [List.map_cons, hout, houts, htx₁]
    rfl

/-- The lines of the transmit link in a tick. -/
def linkLines (p : TxPorts c) : Bool × Word c × Bool := (p.txFrameActive, p.txData, p.txLastWord)

/-- A whole emission carries the words of the encoding in order, the last one marked. -/
theorem map_linkLines_emitPorts (q : OutPkt c) :
    (List.range' 0 (c.lenOut q.type)).map (linkLines ∘ emitPorts q) =
      (encodeOut q).mapIdx fun i w => (true, w, decide (i + 1 = c.lenOut q.type)) := by
  refine List.ext_getElem (by simp) fun i _ _ => ?_
  simp [linkLines, emitPorts, encodeOut, splitWords]

end

/-! ### The obligations -/

/-- Settles O34: the rule of the reply sends the word, beside a receive process that answers. -/
theorem replyStateEmitsOneWord : Obligations.ReplyStateEmitsOneWord := by
  intro s q hrst hrx hs hidx
  obtain ⟨r, hr⟩ := receive_ok hrx s.nextInputs s.draws
  refine ⟨r, hr, ?_⟩
  rw [exec_ofOut, outboundTick_of hrst hr (txPacket_sendsWord hs hidx), mergeFlow_eq_flowAfter, emitPorts_eq_getD hidx]
  rfl

/-- Settles O37: from its word 0 on, the words left of the reply are all of them. -/
theorem replyIsSentWholeAndInOrder : Obligations.ReplyIsSentWholeAndInOrder := by
  intro c e q ticks hc he hs hq hidx hrst hlen
  have hne : ticks ≠ [] := List.ne_nil_of_length_pos (hlen ▸ one_le_lenOut hc q.type)
  obtain ⟨e', outs, hrun, htx, houts⟩ := run_sendsWords hc hne hrst he hs hq (by rw [hidx, hlen, Nat.zero_add])
  refine ⟨e', outs, hrun, by simpa only [hidx] using htx, ?_⟩
  have hlines := congrArg (List.map linkLines) houts
  rw [List.map_map, List.map_map, hidx, hlen, map_linkLines_emitPorts] at hlines
  exact hlines

end Sys2Proof.Machine
end

section
/-! The tick as a whole (45_tick_and_flow_control.md R215, R216, R227): it answers and keeps the invariants, and a
step of the host is that tick, whichever packets it runs. -/

namespace Sys2Proof.Machine

/-- Settles O49: both processes answer, and each keeps its part of R43; an `rst` tick answers the reset values. -/
theorem everyTickHasASuccessorWithTheInvariants : Obligations.EveryTickHasASuccessorWithTheInvariants :=
  fun _ _ inp dr hc he => engineTick_inv hc he inp dr

/-- Settles O57: a step is the plain tick, which commits what the engine's tick answers. -/
theorem stepIsTheEngineTick : Obligations.StepIsTheEngineTick := by
  intro s
  rw [step_eq_plainTick, State.plainTick]
  cases engineTick Config.dflt s.eng s.nextInputs s.draws <;> rfl

/-- Settles O58: the tick of either packet is the plain tick, and so is the step. -/
theorem oneTickRunsBothProcesses : Obligations.OneTickRunsBothProcesses := by
  intro s p q _ hp hq
  rw [step_eq_plainTick, exec_ofIn, exec_ofOut, inboundTick_eq_plainTick hp, outboundTick_eq_plainTick hq]
  exact ⟨rfl, rfl⟩

end Sys2Proof.Machine
end

section
/-! The registers the two processes share (45_tick_and_flow_control.md R217 to R221): the signals each process
asserts in a tick as a function of the committed state, and what the merge makes of them. -/

namespace Sys2Proof.Machine
open Claims

section
variable {c : Config}

/-! ### The signals of a tick (R217) -/

/-- The operands of the ReadRequest a tick handles, if it handles one (42_receive_dispatch.md R150). -/
def RxRegs.handledRead (s : RxRegs c) : Option (BitVec c.wCh × BitVec c.wTimeout) :=
  match s.state, s.pkt with
  | .handlingReadRequest, some (.readRequest channel timeout) => some (channel, timeout)
  | _, _ => none

theorem handledRead_readRequest {s : RxRegs c} {channel : BitVec c.wCh} {timeout : BitVec c.wTimeout}
    (hs : s.state = .handlingReadRequest) (hp : s.pkt = some (.readRequest channel timeout)) :
    s.handledRead = some (channel, timeout) := by
  simp only [RxRegs.handledRead, hs, hp]

theorem handledRead_eq_none {s : RxRegs c} (hs : s.state ≠ .handlingReadRequest) : s.handledRead = none := by
  unfold RxRegs.handledRead
  split
  · contradiction
  · rfl

/-- In a handling state with another type's packet in `pkt` no ReadRequest is handled. -/
theorem handledRead_eq_none_of_type {s : RxRegs c} {p : InPkt c} (hp : s.pkt = some p) {T : InType}
    (hT : s.state.handles = some T) (hne : p.type ≠ T) : s.handledRead = none := by
  unfold RxRegs.handledRead
  split
  case h_1 hs hp' =>
    obtain rfl := Option.some.inj (hp.symm.trans hp')
    rw [hs] at hT
    exact absurd (Option.some.inj hT) hne
  case h_2 => rfl

/-- The signals the receive process asserts in a tick of `e`. -/
def Engine.rxSignals (e : Engine c) (inp : Inputs c) : RxSignals c where
  echoSet := decide (e.rx.state = .idle ∧ rxCurrent e.rx inp = some .echoRequest)
  bsSet := decide (e.rx.state = .handlingBufferSpaceRequest)
  bsUpdate := if e.rx.state = .handlingBufferSpaceRequest then some inp.ioBufferSpace else none
  rrLoad := e.rx.handledRead
  softReset := handlesFullReset e

/-- The signals the reply process asserts in a tick of `e`. -/
def Engine.txSignals (e : Engine c) (inp : Inputs c) : TxSignals where
  bsClear := decide (e.tx.state = .idle) && !e.flow.echoReq && e.flow.bsReq
  rrClear := choosesRead e inp

/-- In `Idle` only a completed EchoRequest is signalled (42_receive_dispatch.md R145). -/
theorem rxSignals_idle {e : Engine c} (hi : e.rx.state = .idle) (inp : Inputs c) :
    e.rxSignals inp =
      { RxSignals.quiet with echoSet := decide ((assemble e.rx inp).done = some .echoRequest) } := by
  simp [Engine.rxSignals, RxSignals.quiet, handlesFullReset, rxCurrent_idle hi, handledRead_eq_none, hi]

/-- A handling state without a BufferSpaceRequest, a ReadRequest or a full Reset to handle signals nothing. -/
theorem rxSignals_eq_quiet {e : Engine c} (hi : e.rx.state ≠ .idle) (hb : e.rx.state ≠ .handlingBufferSpaceRequest)
    (hread : e.rx.handledRead = none) (hreset : handlesFullReset e = false) (inp : Inputs c) :
    e.rxSignals inp = .quiet := by
  simp [Engine.rxSignals, RxSignals.quiet, hi, hb, hread, hreset]

theorem handlesFullReset_eq_false {e : Engine c} (hs : e.rx.state ≠ .handlingReset) : handlesFullReset e = false :=
  decide_eq_false fun h => hs h.1

/-- In a handling state with another type's packet in `pkt` no full Reset is handled. -/
theorem handlesFullReset_eq_false_of_type {e : Engine c} {p : InPkt c} (hp : e.rx.pkt = some p) {T : InType}
    (hT : e.rx.state.handles = some T) (hne : p.type ≠ T) : handlesFullReset e = false := by
  refine decide_eq_false fun ⟨hs, hp'⟩ => hne ?_
  rw [hs] at hT
  rw [Option.some.inj (hp.symm.trans hp'), ← Option.some.inj hT]
  rfl

/-- Receive Dispatch asserts the signals of its state and its packet (42_receive_dispatch.md R145 to R150). -/
theorem receive_signals {e : Engine c} {inp : Inputs c} {dr : Draws c} {r : RxResult c}
    (h : receive e.rx inp dr = .ok r) : r.sig = e.rxSignals inp := by
  obtain ⟨a, rfl, hr⟩ := receive_cases h
  rcases hr with ⟨hi, hd, rfl⟩ | ⟨hi, p, hd, rfl⟩ | ⟨hs, v, -, rfl⟩ | ⟨hs, phy, hp, rfl⟩ |
    ⟨hs, channel, timestamp, address, k, shortData, -, hw⟩ | ⟨hs, rfl⟩ | ⟨hs, channel, timeout, hp, rfl⟩ |
    ⟨hi, hb, ⟨p, T, hp, hT, hne⟩, rfl⟩
  · rw [rxSignals_idle hi, hd]
    rfl
  · rw [rxSignals_idle hi, hd, rxPacket_idle hi]
    cases p <;> rfl
  · rw [rxSignals_eq_quiet (by simp [hs]) (by simp [hs]) (handledRead_eq_none (by simp [hs]))
      (handlesFullReset_eq_false (by simp [hs]))]
    rfl
  · obtain rfl | rfl : phy = 0 ∨ phy = 1 := BitVec.eq_zero_or_eq_one phy
    · simp [Engine.rxSignals, RxSignals.quiet, handlesFullReset, handledRead_eq_none, hs, hp, resetEffect]
    · rw [rxSignals_eq_quiet (by simp [hs]) (by simp [hs]) (handledRead_eq_none (by simp [hs]))
        (by simp [handlesFullReset, hp])]
      rfl
  · rw [rxSignals_eq_quiet (by simp [hs]) (by simp [hs]) (handledRead_eq_none (by simp [hs]))
      (handlesFullReset_eq_false (by simp [hs]))]
    rcases handleWrite_cases hw with ⟨-, -, rfl⟩ | ⟨-, -, rfl⟩ | ⟨-, rfl⟩ | ⟨-, rfl⟩ <;> rfl
  · simp [Engine.rxSignals, RxSignals.quiet, handlesFullReset, handledRead_eq_none, hs]
  · simp [Engine.rxSignals, RxSignals.quiet, handlesFullReset, handledRead_readRequest hs hp, hs]
  · rw [rxSignals_eq_quiet hi hb (handledRead_eq_none_of_type hp hT hne) (handlesFullReset_eq_false_of_type hp hT hne)]
    rfl

/-- The reply process clears the latch of the reply an `Idle` tick chooses (43_reply_generation.md R171 to R176). -/
theorem reply_signals {e : Engine c} {inp : Inputs c} {dr : Draws c} {t : TxResult c}
    (h : reply e.tx e.flow inp dr = .ok t) : t.sig = e.txSignals inp := by
  by_cases hs : e.tx.state = .idle
  · rw [reply_idle hs] at h
    obtain rfl := Except.ok.inj h
    simp only [Engine.txSignals, choosesRead, hs]
    cases he : e.flow.echoReq with
    | true => rw [chooseReply_echo he]; rfl
    | false =>
      cases hb : e.flow.bsReq with
      | true => rw [chooseReply_bufferSpace he hb]; rfl
      | false =>
        cases hr : e.flow.rr.pending with
        | false => rw [chooseReply_none he hb (.inl hr)]; rfl
        | true =>
          cases hp : inp.ioStatusPending with
          | true => rw [chooseReply_none he hb (.inr hp)]; rfl
          | false =>
            rw [chooseReply_read he hb hr hp]
            unfold readReply
            cases readOutcome inp dr <;> rfl
  · obtain ⟨-, -, hsig⟩ := reply_emitting hs h
    simp [hsig, Engine.txSignals, choosesRead, TxSignals.quiet, hs]

/-- The shared registers after a tick without `rst`, as the signals of the two processes merge (R218 to R221). -/
theorem engineTick_flow {e e' : Engine c} {inp : Inputs c} {dr : Draws c} {out : Outputs c} (hrst : inp.rst = false)
    (h : engineTick c e inp dr = .ok (e', out)) :
    e'.flow = flowAfter e.flow (e.rxSignals inp) (e.txSignals inp).bsClear (e.txSignals inp).rrClear := by
  rcases engineTick_cases h with ⟨hrst', -⟩ | ⟨-, r, t, hr, ht, rfl, -⟩
  · cases hrst.symm.trans hrst'
  · rw [mergeFlow_eq_flowAfter, receive_signals hr, reply_signals ht]

end

/-! ### The obligations -/

/-- Settles O44: the two processes' signals merge as R218 says; a latch at 0 has nothing to clear. -/
theorem bufferSpaceLatchUpdate : Obligations.BufferSpaceLatchUpdate := by
  intro c e e' inp dr out hrst h
  rw [engineTick_flow hrst h]
  simp only [flowAfter, Engine.rxSignals, Engine.txSignals]
  cases e.flow.bsReq <;> simp

/-- Settles O43: the snapshot comes with the set, and by the latch's update nothing else raises the latch. -/
theorem bufferSpaceChangesOnlyBySnapshot : Obligations.BufferSpaceChangesOnlyBySnapshot := by
  intro c e e' inp dr out hrst h
  have hspace : e'.flow.bufferSpace =
      if e.rx.state = .handlingBufferSpaceRequest then inp.ioBufferSpace else e.flow.bufferSpace := by
    rw [engineTick_flow hrst h]
    simp only [flowAfter, Engine.rxSignals]
    split <;> rfl
  refine ⟨hspace, fun hb hb' => ?_⟩
  rw [bufferSpaceLatchUpdate c e e' inp dr out hrst h, hb] at hb'
  rw [hspace, if_pos (by simpa using hb')]

/-- Settles O45: the load wins, then the full reset, then the clear of a chosen read. -/
theorem readSlotUpdate : Obligations.ReadSlotUpdate := by
  intro c e e' inp dr out hrst h
  rw [engineTick_flow hrst h]
  refine ⟨fun channel timeout hs hp => ?_, fun hs hreset => ?_, fun hs hreset => ?_⟩
  · simp only [flowAfter, Engine.rxSignals, handledRead_readRequest hs hp]
  · simp only [flowAfter, Engine.rxSignals, handledRead_eq_none hs, hreset, if_true]
  · simp only [flowAfter, Engine.rxSignals, Engine.txSignals, handledRead_eq_none hs, hreset, Bool.false_eq_true,
      if_false]

/-- Settles O46: the register is the copy of `echo_set`. -/
theorem echoPulseLastsOneTick : Obligations.EchoPulseLastsOneTick := by
  intro c e e' inp dr out hrst h
  rw [engineTick_flow hrst h]
  exact decide_eq_true_iff

end Sys2Proof.Machine
end

section
/-! The draws (45_tick_and_flow_control.md R226): a tick over other draws is the same tick with the undriven lines drawn
again, where the choice of 43_reply_generation.md R177 is the same. -/

namespace Sys2Proof.Machine

section
variable {c : Config}

/-! ### The receive process -/

/-- The ports with the lines no rule drives, and the address and data of a read command, taken from other draws
(10_state.md R38; 42_receive_dispatch.md R150). -/
def RxPorts.redraw (dr : Draws c) (p : RxPorts c) : RxPorts c :=
  { p with
    ioChannel := if p.ioCmd = .none then dr.ioChannel else p.ioChannel
    ioTimestamp := if p.ioCmd = .none then dr.ioTimestamp else p.ioTimestamp
    ioAddress := if p.ioCmd = .write then p.ioAddress else dr.ioAddress
    ioData := if p.ioCmd = .write then p.ioData else dr.ioData
    tscValue := if p.tscLoad then p.tscValue else dr.tscValue }

/-- What the receive process yields, with its ports drawn again. -/
def RxResult.redraw (dr : Draws c) (r : RxResult c) : RxResult c := { r with ports := r.ports.redraw dr }

section
variable (s : RxRegs c) (a : AsmResult c) (inp : Inputs c) (dr dr' : Draws c)

theorem handleWrite_redraw (channel : BitVec c.wCh) (timestamp : BitVec c.wWts) (address : BitVec c.wAddr)
    (k : BitVec c.wExtra) (shortData : BitVec c.wShort) :
    handleWrite channel timestamp address k shortData ⟨s, a, inp, dr'⟩ =
      (handleWrite channel timestamp address k shortData ⟨s, a, inp, dr⟩).redraw dr' := by
  unfold handleWrite
  split
  · split <;> rfl
  · split <;> rfl

theorem resetEffect_redraw (phy : BitVec Config.wPhy) :
    resetEffect phy ⟨s, a, inp, dr'⟩ = (resetEffect phy ⟨s, a, inp, dr⟩).redraw dr' := by
  unfold resetEffect
  split <;> rfl

/-- A packet's rule uses its draws for the undriven lines and the address and data of a read command alone. -/
theorem rxPacket_redraw (p : InPkt c) :
    rxPacket p ⟨s, a, inp, dr'⟩ = (rxPacket p ⟨s, a, inp, dr⟩).redraw dr' := by
  cases p with
  | echoRequest => cases hs : s.state <;> simp only [rxPacket, rxEchoRequest, hs] <;> rfl
  | setTime timestamp => cases hs : s.state <;> simp only [rxPacket, rxSetTime, hs] <;> rfl
  | reset phy =>
    cases hs : s.state with
    | handlingReset => simp only [rxPacket, rxReset, hs, resetEffect_redraw s a inp dr dr']; rfl
    | _ => simp only [rxPacket, rxReset, hs]; rfl
  | write channel timestamp address k shortData =>
    cases hs : s.state with
    | handlingWrite => simp only [rxPacket, rxWrite, hs, handleWrite_redraw s a inp dr dr']
    | _ => simp only [rxPacket, rxWrite, hs]; rfl
  | bufferSpaceRequest => cases hs : s.state <;> simp only [rxPacket, rxBufferSpaceRequest, hs] <;> rfl
  | readRequest channel timeout => cases hs : s.state <;> simp only [rxPacket, rxReadRequest, hs] <;> rfl

end

/-- Over other draws the receive process yields the same, with its ports drawn again. -/
theorem receive_redraw {s : RxRegs c} {inp : Inputs c} {dr dr' : Draws c} {r r' : RxResult c}
    (h : receive s inp dr = .ok r) (h' : receive s inp dr' = .ok r') : r' = r.redraw dr' := by
  cases hp : rxCurrent s inp with
  | some p =>
    rw [receive_some _ hp] at h h'
    rw [← Except.ok.inj h, ← Except.ok.inj h', rxPacket_redraw _ _ _ dr dr']
  | none =>
    rw [receive_none _ hp] at h h'
    unfold rxNoPacket at h h'
    cases hs : s.state with
    | idle =>
      simp only [hs] at h h'
      rw [← Except.ok.inj h, ← Except.ok.inj h']
      rfl
    | _ => simp [hs] at h

/-! ### The reply process -/

/-- The two results differ in nothing but the data line. -/
structure TxResult.SameButData (t t' : TxResult c) : Prop where
  regs : t.regs = t'.regs
  sig : t.sig = t'.sig
  frame : t.ports.txFrameActive = t'.ports.txFrameActive
  last : t.ports.txLastWord = t'.ports.txLastWord

/-- Draws that agree in the choice of R177 choose one outcome reply. -/
theorem readReply_draws {inp : Inputs c} {dr dr' : Draws c}
    (h : inp.ioStatusTimedOut = true → inp.ioStatusOverflowed = true → dr.choosesTimeout = dr'.choosesTimeout) :
    readReply inp dr = readReply inp dr' := by
  have hout : readOutcome inp dr = readOutcome inp dr' := by
    unfold readOutcome
    split
    case h_1 ht ho => rw [h ht ho]
    all_goals rfl
  unfold readReply
  rw [hout]

theorem chooseReply_draws (flow : FlowRegs c) {inp : Inputs c} {dr dr' : Draws c}
    (h : inp.ioStatusTimedOut = true → inp.ioStatusOverflowed = true → dr.choosesTimeout = dr'.choosesTimeout) :
    chooseReply flow inp dr = chooseReply flow inp dr' := by
  unfold chooseReply
  rw [readReply_draws h]

theorem txEmit_draws (q : OutPkt c) (s : TxRegs c) (dr dr' : Draws c) :
    (txEmit q ⟨s, dr⟩).SameButData (txEmit q ⟨s, dr'⟩) := by
  unfold txEmit
  split
  · exact ⟨rfl, rfl, rfl, rfl⟩
  · split <;> exact ⟨rfl, rfl, rfl, rfl⟩

/-- A reply state that answers holds a packet. -/
theorem exists_emPkt_of_reply {s : TxRegs c} (hs : s.state ≠ .idle) {flow : FlowRegs c} {inp : Inputs c} {dr : Draws c}
    {t : TxResult c} (h : reply s flow inp dr = .ok t) : ∃ q, s.emPkt = some q := by
  rcases reply_cases h with ⟨hi, -⟩ | ⟨hi, -⟩ | ⟨-, q, hq, -⟩ | ⟨-, q, hq, -⟩ | ⟨-, q, hq, -⟩
  · exact absurd hi hs
  · exact absurd hi hs
  all_goals exact ⟨q, hq⟩

/-- A tick of a reply state emits the packet it holds, over any draws. -/
theorem reply_emits {s : TxRegs c} (hs : s.state ≠ .idle) {flow : FlowRegs c} {inp : Inputs c} {q : OutPkt c}
    (hq : s.emPkt = some q) (dr : Draws c) : reply s flow inp dr = .ok (txEmit q ⟨s, dr⟩) := by
  rw [reply_some ((txCurrent_emitting hs).trans hq), txPacket_emits hs]

/-- Over other draws that make the same choice the reply process yields the same but for the data line. -/
theorem reply_draws {s : TxRegs c} {flow : FlowRegs c} {inp : Inputs c} {dr dr' : Draws c} {t t' : TxResult c}
    (hchoice : inp.ioStatusTimedOut = true → inp.ioStatusOverflowed = true → dr.choosesTimeout = dr'.choosesTimeout)
    (h : reply s flow inp dr = .ok t) (h' : reply s flow inp dr' = .ok t') : t.SameButData t' := by
  by_cases hs : s.state = .idle
  · rw [reply_idle hs, chooseReply_draws flow hchoice] at h
    rw [reply_idle hs] at h'
    rw [← Except.ok.inj h, ← Except.ok.inj h']
    cases chooseReply flow inp dr' <;> exact ⟨rfl, rfl, rfl, rfl⟩
  · obtain ⟨q, hq⟩ := exists_emPkt_of_reply hs h
    rw [reply_emits hs hq] at h h'
    rw [← Except.ok.inj h, ← Except.ok.inj h']
    exact txEmit_draws q s dr dr'

/-- Under I5 a driven data line holds a word of the packet, whatever the draws (44_packet_emitter.md R201). -/
theorem reply_draws_data {s : TxRegs c} (hinv : s.Inv) {flow : FlowRegs c} {inp : Inputs c} {dr dr' : Draws c}
    {t t' : TxResult c} (h : reply s flow inp dr = .ok t) (h' : reply s flow inp dr' = .ok t')
    (hf : t.ports.txFrameActive = true) : t.ports.txData = t'.ports.txData := by
  by_cases hs : s.state = .idle
  · rw [ports_of_reply_idle hs h] at hf
    cases hf
  · obtain ⟨q, hq, -, hidx⟩ := hinv.emitting hs
    rw [reply_emits hs hq, txEmit_of_lt hidx] at h h'
    rw [← Except.ok.inj h, ← Except.ok.inj h']

end

/-! ### The obligation -/

/-- Settles O47: without `rst` the tick is the merge of the two processes, the receive process's ports drawn again and
the reply process's the same but for the data line. -/
theorem drawsReachOnlyUndrivenLines : Obligations.DrawsReachOnlyUndrivenLines := by
  intro c e e₁ e₂ inp dr₁ dr₂ o₁ o₂ hrst hchoice h₁ h₂
  rcases engineTick_cases h₁ with ⟨hrst₁, -⟩ | ⟨-, r₁, t₁, hr₁, ht₁, rfl, rfl⟩
  · cases hrst.symm.trans hrst₁
  rcases engineTick_cases h₂ with ⟨hrst₂, -⟩ | ⟨-, r₂, t₂, hr₂, ht₂, rfl, rfl⟩
  · cases hrst.symm.trans hrst₂
  obtain rfl := receive_redraw hr₁ hr₂
  obtain ⟨hregs, hsig, hframe, hlast⟩ := reply_draws hchoice ht₁ ht₂
  refine ⟨?_, rfl, rfl, rfl, rfl, rfl, rfl, hframe, hlast, fun hcmd => ?_, fun hcmd => ?_, fun hload => ?_,
    fun hinv => reply_draws_data hinv ht₁ ht₂⟩
  · rw [hregs, hsig]
    rfl
  · exact ⟨(if_neg hcmd).symm, (if_neg hcmd).symm⟩
  · exact ⟨(if_pos hcmd).symm, (if_pos hcmd).symm⟩
  · exact (if_pos hload).symm

end Sys2Proof.Machine
end

section
/-! The ticks that raise a condition (60_exceptions.md R240 to R246): where one comes from, and what it leaves of the
receive process. -/

namespace Sys2Proof.Machine
open Claims

section
variable {c : Config}

/-- A condition is the only command, pulse or condition of ports that assert at most one (60_exceptions.md R245). -/
theorem condition_excludes_outputs {p : RxPorts c} (hone : receiveOutputs p ≤ 1)
    (hcond : p.unknownPacketType = true ∨ p.packetTruncated = true) :
    p.ioCmd = .none ∧ p.tscLoad = false ∧ p.resetOut = false ∧ p.resetPhyOut = false := by
  have hraised : 1 ≤ p.unknownPacketType.toNat + p.packetTruncated.toNat := by
    rcases hcond with h | h <;> simp [h]
  unfold receiveOutputs at hone
  simp only [← Bool.toNat_eq_zero]
  split at hone
  case isTrue hnone => exact ⟨hnone, by omega, by omega, by omega⟩
  case isFalse => omega

/-- Where the assembler raises a condition it completes no packet, has none in progress and keeps `pkt`
(40_packet_assembler.md R105, R107). -/
theorem assemble_of_condition {s : RxRegs c} {inp : Inputs c}
    (hcond : (assemble s inp).unknownType = true ∨ (assemble s inp).truncated = true) :
    (assemble s inp).done = none ∧ (assemble s inp).regs.asmBusy = false ∧ (assemble s inp).regs.pkt = s.pkt := by
  rcases assemble_cases (rfl : assemble s inp = _) with
    ⟨-, ha⟩ | ⟨hb, -, -, -, ⟨-, ha⟩ | ⟨T, -, -, ha⟩ | ⟨T, -, -, ha⟩⟩ | ⟨-, -, -, ha⟩ | ⟨-, -, -, ha⟩ |
      ⟨-, -, ha⟩ <;>
    rw [ha] at hcond ⊢
  case inr.inl.inl => exact ⟨rfl, hb, rfl⟩
  case inr.inr.inr.inr => exact ⟨rfl, rfl, rfl⟩
  all_goals exact absurd hcond (by simp [asmQuiet, asmComplete, asmStart, asmStore])

/-- The one condition of a handling state is the truncation of a Write (41_write_accumulator.md R124). -/
theorem truncates_of_condition {s : RxRegs c} {inp : Inputs c} {dr : Draws c} {p : InPkt c} (hs : s.Inv)
    (hi : s.state ≠ .idle) (hp : s.pkt = some p) (hstate : s.state = entered p.type)
    (hcond : (rxPacket p (handlingTick s inp dr)).ports.unknownPacketType = true ∨
      (rxPacket p (handlingTick s inp dr)).ports.packetTruncated = true) :
    rxPacket p (handlingTick s inp dr) =
      { regs := { s with framePrev := false, state := .idle, accCnt := 0, accWords := Vector.replicate _ 0 }
        ports := { RxPorts.defaults dr with packetTruncated := true }
        sig := .quiet } := by
  cases p with
  | echoRequest => exact absurd hstate hi
  | setTime timestamp => simp [rxPacket_handlingSetTime hstate, RxPorts.defaults] at hcond
  | reset phy =>
    obtain rfl | rfl : phy = 0 ∨ phy = 1 := BitVec.eq_zero_or_eq_one phy
    · rw [rxPacket_handlingReset_full hstate] at hcond
      simp [RxPorts.defaults] at hcond
    · rw [rxPacket_handlingReset_phy hstate] at hcond
      simp [RxPorts.defaults] at hcond
  | write channel timestamp address k shortData =>
    rw [rxPacket_handlingWrite hstate] at hcond ⊢
    by_cases hlt : s.accCnt < k
    · cases hf : inp.rxFrameActive with
      | true => simp [handleWrite_consumes hstate hlt hf, RxPorts.defaults] at hcond
      | false => exact handleWrite_truncates hlt hf
    · have hk := (hs.accumulating _ _ _ _ _ hstate hp).1
      rw [handleWrite_submits (BitVec.le_antisymm hk (BitVec.not_lt.mp hlt))] at hcond
      simp [RxPorts.defaults] at hcond
  | bufferSpaceRequest => simp [rxPacket_handlingBufferSpaceRequest hstate, RxPorts.defaults] at hcond
  | readRequest channel timeout => simp [rxPacket_handlingReadRequest hstate, RxPorts.defaults] at hcond

/-- A receive tick that raises a condition signals nothing, and leaves the process waiting for a frame with a clear
accumulator and its old `pkt` (60_exceptions.md R242, R244). -/
theorem receive_of_condition {s : RxRegs c} (hs : s.Inv) {inp : Inputs c} {dr : Draws c} {r : RxResult c}
    (h : receive s inp dr = .ok r) (hcond : r.ports.unknownPacketType = true ∨ r.ports.packetTruncated = true) :
    r.sig = .quiet ∧ r.regs.Waits ∧ r.regs.accCnt = 0 ∧ r.regs.accWords = Vector.replicate _ 0 ∧
      r.regs.pkt = s.pkt := by
  by_cases hi : s.state = .idle
  · rw [receive_idle hi rfl] at h
    obtain rfl := Except.ok.inj h
    obtain ⟨hdone, hbusy, hpkt⟩ := assemble_of_condition hcond
    obtain ⟨hcnt, hwords⟩ := assemble_clear hs (by simp [hi]) inp
    simp only [stateAfter, hdone]
    exact ⟨rfl, ⟨rfl, hbusy⟩, hcnt, hwords, hpkt⟩
  · obtain ⟨p, hp, hstate, hr⟩ := receive_handling hs hi inp dr
    obtain rfl := Except.ok.inj (hr.symm.trans h)
    rw [truncates_of_condition hs hi hp hstate hcond]
    exact ⟨rfl, ⟨rfl, (hs.noEdge hi).2⟩, rfl, rfl, rfl⟩

end

/-! ### The obligation -/

/-- Settles O55: the `rst` tick raises nothing; in any other the condition is the one output of the receive process,
which signals nothing, so the merge leaves the reply side's clears. -/
theorem conditionLeavesTheReceiveProcessReady : Obligations.ConditionLeavesTheReceiveProcessReady := by
  intro c e e' inp dr out he h hcond
  obtain ⟨hcmd, hload, hreset, hphy⟩ :=
    condition_excludes_outputs (atMostOneReceiveOutputPerTick c e e' inp dr out he h) hcond
  rcases engineTick_cases h with ⟨-, -, rfl⟩ | ⟨-, r, t, hr, ht, rfl, rfl⟩
  · simp [Outputs.defaults, RxPorts.defaults] at hcond
  · obtain ⟨hsig, ⟨hidle, hbusy⟩, hcnt, hwords, hpkt⟩ := receive_of_condition he.rx hr hcond
    refine ⟨hidle, hbusy, hcnt, hwords, hpkt, hcmd, hload, hreset, hphy, t, ht, ?_⟩
    rw [hsig]
    exact mergeFlow_quiet e.flow t.sig

end Sys2Proof.Machine
end

section
/-! The two ticks that do no work (70_reset_and_hazards.md R260, R261, R266): the `rst` tick and the tick of
an engine at rest. -/

namespace Sys2Proof.Machine
open Claims

section
variable {c : Config}

/-- With `rst = 1` the tick is the reset step, whatever the processes would yield (70_reset_and_hazards.md R260). -/
theorem engineTick_rst (e : Engine c) {inp : Inputs c} (dr : Draws c) (hrst : inp.rst = true) :
    engineTick c e inp dr = .ok (.resetTick dr, .defaults dr) := by
  simp [engineTick, tickWith, hrst]

/-- A waiting tick of the reply process only writes `Idle` and `em_idx = 0`, which the invariant says are there, and
an engine without an echo request has no flow-control register to update. -/
theorem afterReply_txIdle {e : Engine c} (hs : e.tx.state = .idle) (hidx : e.tx.emIdx = 0)
    (he : e.flow.echoReq = false) (dr : Draws c) :
    e.afterReply (txIdle ⟨e.tx, dr⟩) = { e with rx := { e.rx with framePrev := false } } := by
  have htx : (txIdle ⟨e.tx, dr⟩).regs = e.tx := by rw [txIdle, ← hs, ← hidx]
  have hflow : flowQuiet e.flow (txIdle ⟨e.tx, dr⟩).sig = e.flow := by
    simp only [flowQuiet, txIdle, TxSignals.quiet, Bool.not_false, Bool.and_true]
    rw [← he]
  rw [Engine.afterReply, htx, hflow]

end

/-! ### The obligations -/

/-- Settles O54: the receive process waits for a frame and the reply process for a request, so neither drives a line
and only the frame is followed. -/
theorem quiescentStateStaysQuiescent : Obligations.QuiescentStateStaysQuiescent := by
  intro c e inp dr hrst hinv hq hframe
  obtain ⟨hrx, hs, hecho, hbs, hrr⟩ := (Engine.quiescent_iff e).mp hq
  have htick := engineTick_frameless hrx (x := (inp, dr)) ⟨hrst, hframe⟩ (reply_waits hs hecho hbs hrr inp dr)
  rw [afterReply_txIdle hs (hinv.tx.waiting hs) hecho] at htick
  exact ⟨_, _, htick, (Engine.quiescent_iff _).mpr ⟨hrx, hs, hecho, hbs, hrr⟩, rfl, rfl⟩

/-- Settles O53: a step is the engine's tick, which with `rst = 1` is the reset step. -/
theorem rstTickResetsEverything : Obligations.RstTickResetsEverything := by
  intro s hrst
  rw [step_eq_plainTick, State.plainTick, engineTick_rst s.eng s.draws hrst]
  rfl

end Sys2Proof.Machine
end
